-- ==== Sys2Proof/Config.lean ====
section
/-! DEFINITION. What an implementation of the block fixes: the OPEN parameters of 00_scope R8. -/

namespace Sys2Proof

/-- The error values of the machine whose state is `State` and whose step is `step`. The parameter `E` of 00_scope R8 (92 D14) is an
argument of every type and operation that carries an error; this type is only the one it has where none is given.
DESIGN CHOICE (log 1): a wrapped number, so that there are as many different errors as a transport may need, each equal only to
itself. Safe: the machine of every other error type runs alike. -/
structure TransportError where
  tag : Nat
  deriving DecidableEq, Repr

/-- The parameters `MAX_PT_BYTES` and `MAX_PT_SEGS` (00_scope R8, 92 D13). They are fixed for one machine, so they stand in
`State` as data that no step changes, and every statement about all states is about all their values. `State.resetWith` and
`coreOf` take them as an argument. -/
structure Params where
  maxPtBytes : Nat
  maxPtSegs : Nat
  deriving DecidableEq, Repr

/-- "Both are positive naturals" (92 D13). -/
abbrev Params.Positive (p : Params) : Prop := 0 < p.maxPtBytes ∧ 0 < p.maxPtSegs

/-- The parameters of the machine whose reset state is `State.reset`.
DESIGN CHOICE (log 2): the spec leaves both open; no statement rests on these two numbers. Unsafe. -/
def Config.resetParams : Params where
  maxPtBytes := 65535
  maxPtSegs := 65535

end Sys2Proof
end

