-- ==== Sys2Proof/Word.lean ====
section
/-! DEFINITION. The widths of the block: bytes, 16-bit words, the 48-bit command word and the 32-cell buffers (00_scope R8, R9; 10_state R23). -/

namespace Sys2Proof

/-- An 8-bit value: a device address (`ADDR_WIDTH`), a register/command code (`CMD_WIDTH`) or a data byte (00_scope R8). -/
abbrev Byte := BitVec 8

/-- A 16-bit value, `WORD_WIDTH` (00_scope R8). -/
abbrev Word := BitVec 16

/-- The command word `CW`, `CW_WIDTH` = 48 bits (00_scope R8, 30_encoding R67). -/
abbrev CmdWord := BitVec 48

/-- A buffer of 32 cells of 8 bits, each of which holds a byte or `⊥` (`none`; log 16, DEDUCED), as `OPR.WBUF`, `STAGE` and `RSP.RBUF`
are (10_state R28, R31, R33). The 32 is `BLOCK_MAX`, a protocol invariant and no parameter (00_scope R9). -/
abbrev Cells := Vector (Option Byte) 32

/-- The 32-cell byte buffer `WB` a command carries on the command port (10_state R35). -/
abbrev WriteBuf := Vector Byte 32

/-- 32 cells that all hold `⊥`. -/
def Cells.bottom : Cells := Vector.replicate 32 none

end Sys2Proof
end

