-- ==== Sys2Proof/Machine/Ports.lean ====
section
/-! DEFINITION. What crosses the command port and the transport port: commands, descriptors, requests and answers
(00_scope R17; 10_state R35; 30_encoding R73; 60_exceptions R121). -/

namespace Sys2Proof

/-- One part of a multi-segment transaction: `SegWrite(bs)` or `SegRead(n)` (00_scope R17). -/
inductive Seg where
  | write (bs : List Byte)
  | read (n : Nat)
  deriving DecidableEq, Repr

/-- The passthrough descriptor `PTD` in its four shapes (30_encoding R73). -/
inductive PTDesc where
  | readPT (n : Nat)
  | writePT (bs : List Byte)
  | writeReadPT (bs : List Byte) (n : Nat)
  | txnPT (segs : List Seg)
  deriving DecidableEq, Repr

/-- A command `c = (CW, WB, PTD)` as the Caller presents it (10_state R35). `ptd` is `none` where no descriptor is given. -/
structure Cmd where
  cw : CmdWord
  wb : WriteBuf
  ptd : Option PTDesc
  deriving DecidableEq, Repr

/-- A transport request `TReq` (00_scope R17; 20_memory R53 to R55). -/
inductive TReq where
  | read (addr : Byte) (n : Nat)
  | write (addr : Byte) (bs : List Byte)
  | writeRead (addr : Byte) (bs : List Byte) (n : Nat)
  | txn (addr : Byte) (segs : List Seg)
  deriving DecidableEq, Repr

/-- The read data of a successful answer: one byte list per read part, in request order (00_scope R17). -/
abbrev ReadData := List (List Byte)

/-- The Transport's answer `TRsp`: `TOk(d)` or `TErr(e)` with `e : E` (00_scope R17). -/
inductive TRsp (E : Type := TransportError) where
  | ok (d : ReadData)
  | err (e : E)
  deriving DecidableEq, Repr

/-- The reasons of a refusal, in the order in which admission checks them (60_exceptions R121). The Issue step records one in
`REFUSED`; none of them stops the model, which goes on to a next state that only Reset leaves. Safe: they are the spec's own. -/
inductive RefuseReason where
  /-- `RESERVED_OPCODE`: `CW[3:0]` = 0xF. -/
  | reservedOpcode
  /-- `RESERVED_BITS`: `CW[11]` or `CW[47:44]` is not zero. -/
  | reservedBits
  /-- `UNUSED_FIELD`: a field that 30_encoding R70 marks `Z` for the opcode is not zero. -/
  | unusedField
  /-- `BLOCK_LENGTH`: a block write with `CW[10:5]` > 32. -/
  | blockLength
  /-- `PT_SHAPE`: a passthrough command whose descriptor has the wrong shape. -/
  | ptShape
  /-- `PT_SIZE`: a passthrough command whose descriptor exceeds `MAX_PT_BYTES` or `MAX_PT_SEGS`. -/
  | ptSize
  deriving DecidableEq, Repr

end Sys2Proof
end

