-- ==== Sys2Proof/Syntax.lean ====
section
/-! DEFINITION. The command set: one constructor per row of spec/opcode_table.json, with the operands of the command's
assembler line (00_scope R2; 30_encoding R69, R78). -/

namespace Sys2Proof

/-- The fifteen commands (30_encoding R69), in opcode order. Block data and passthrough operands, which travel beside the
command word, are operands here. -/
inductive Instr where
  /-- `QUICK addr, q` (40 R89). -/
  | quick (addr : Byte) (flag : Bool)
  /-- `RECV_BYTE addr` (40 R90). -/
  | recvByte (addr : Byte)
  /-- `SEND_BYTE addr, byte` (40 R91). -/
  | sendByte (addr byte : Byte)
  /-- `READ_BYTE addr, reg` (40 R92). -/
  | readByte (addr reg : Byte)
  /-- `READ_WORD addr, reg` (40 R93). -/
  | readWord (addr reg : Byte)
  /-- `WRITE_BYTE addr, reg, byte` (40 R94). -/
  | writeByte (addr reg byte : Byte)
  /-- `WRITE_WORD addr, reg, word` (40 R95). -/
  | writeWord (addr reg : Byte) (word : Word)
  /-- `PROC_CALL addr, reg, word` (40 R96). -/
  | procCall (addr reg : Byte) (word : Word)
  /-- `BLOCK_READ addr, reg` (41 R102). -/
  | blockRead (addr reg : Byte)
  /-- `BLOCK_WRITE addr, reg, data` with `LEN` = the number of data bytes (41 R103). -/
  | blockWrite (addr reg : Byte) (data : List Byte)
  /-- `BLOCK_PROC_CALL addr, reg, data` (41 R104). -/
  | blockProcCall (addr reg : Byte) (data : List Byte)
  /-- `I2C_READ addr, n` (42 R108). -/
  | i2cRead (addr : Byte) (n : Nat)
  /-- `I2C_WRITE addr, bs` (42 R109). -/
  | i2cWrite (addr : Byte) (bs : List Byte)
  /-- `I2C_WRITE_READ addr, bs, n` (42 R110). -/
  | i2cWriteRead (addr : Byte) (bs : List Byte) (n : Nat)
  /-- `I2C_TXN addr, segs` (42 R111). -/
  | i2cTxn (addr : Byte) (segs : List Seg)
  deriving DecidableEq, Repr

end Sys2Proof
end

