-- ==== Sys2Proof/WellFormed.lean ====
section
/-! DEFINITION. Which operands a command may carry: the block length (30_encoding R75 `BLOCK_LENGTH`) and the passthrough
sizes (30_encoding R73, R75 `PT_SIZE`). Everything else about an operand is in its type. -/

namespace Sys2Proof

/-- At most 32 block data bytes (30_encoding R75; 41_smbus_block R98). -/
def blockDataFits (data : List Byte) : Bool := data.length ≤ 32

/-- One segment is within `MAX_PT_BYTES` (30_encoding R73). -/
def Seg.fits (p : Params) : Seg → Bool
  | .write bs => bs.length ≤ p.maxPtBytes
  | .read n => n ≤ p.maxPtBytes

/-- A passthrough descriptor is within `MAX_PT_BYTES` and `MAX_PT_SEGS` (30_encoding R73). -/
def PTDesc.fits (p : Params) : PTDesc → Bool
  | .readPT n => n ≤ p.maxPtBytes
  | .writePT bs => bs.length ≤ p.maxPtBytes
  | .writeReadPT bs n => bs.length ≤ p.maxPtBytes && n ≤ p.maxPtBytes
  | .txnPT segs => segs.length ≤ p.maxPtSegs && segs.all (Seg.fits p)

/-- The passthrough descriptor of a command, `none` for the SMBus commands (30_encoding R70, last column). -/
def Instr.desc : Instr → Option PTDesc
  | .quick _ _ => none
  | .recvByte _ => none
  | .sendByte _ _ => none
  | .readByte _ _ => none
  | .readWord _ _ => none
  | .writeByte _ _ _ => none
  | .writeWord _ _ _ => none
  | .procCall _ _ _ => none
  | .blockRead _ _ => none
  | .blockWrite _ _ _ => none
  | .blockProcCall _ _ _ => none
  | .i2cRead _ n => some (.readPT n)
  | .i2cWrite _ bs => some (.writePT bs)
  | .i2cWriteRead _ bs n => some (.writeReadPT bs n)
  | .i2cTxn _ segs => some (.txnPT segs)

/-- The block data of a command, empty for a command that has none (30_encoding R70, column `WB`). -/
def Instr.data : Instr → List Byte
  | .quick _ _ => []
  | .recvByte _ => []
  | .sendByte _ _ => []
  | .readByte _ _ => []
  | .readWord _ _ => []
  | .writeByte _ _ _ => []
  | .writeWord _ _ _ => []
  | .procCall _ _ _ => []
  | .blockRead _ _ => []
  | .blockWrite _ _ data => data
  | .blockProcCall _ _ data => data
  | .i2cRead _ _ => []
  | .i2cWrite _ _ => []
  | .i2cWriteRead _ _ _ => []
  | .i2cTxn _ _ => []

/-- The command can be encoded: its block data fit the 32 cells of `WB`. -/
def Instr.encodable (i : Instr) : Bool := blockDataFits i.data

/-- A command an implementation with parameters `p` admits. -/
def Instr.wf (p : Params) (i : Instr) : Bool := i.encodable && i.desc.all (PTDesc.fits p)

end Sys2Proof
end

