-- ==== Sys2Proof/Decode.lean ====
section
/-! DEFINITION. The command word: its fields, the table of the fields each command uses, the decoder with the refusals of
admission, and the encoder (30_encoding R67 to R79). -/

namespace Sys2Proof

/-! ## The fields of `CW` (30_encoding R67) -/

/-- `OP`, `CW[3:0]`. -/
def opField (cw : CmdWord) : BitVec 4 := cw.extractLsb' 0 4
/-- `Q`, `CW[4]`. -/
def qField (cw : CmdWord) : BitVec 1 := cw.extractLsb' 4 1
/-- `LEN`, `CW[10:5]`. -/
def lenField (cw : CmdWord) : BitVec 6 := cw.extractLsb' 5 6
/-- The reserved bit `CW[11]`. -/
def reservedLow (cw : CmdWord) : BitVec 1 := cw.extractLsb' 11 1
/-- `ADDR`, `CW[19:12]`. -/
def addrField (cw : CmdWord) : Byte := cw.extractLsb' 12 8
/-- `REG`, `CW[27:20]`. -/
def regField (cw : CmdWord) : Byte := cw.extractLsb' 20 8
/-- `D0`, `CW[35:28]`. -/
def d0Field (cw : CmdWord) : Byte := cw.extractLsb' 28 8
/-- `D1`, `CW[43:36]`. -/
def d1Field (cw : CmdWord) : Byte := cw.extractLsb' 36 8
/-- The reserved bits `CW[47:44]`. -/
def reservedHigh (cw : CmdWord) : BitVec 4 := cw.extractLsb' 44 4
/-- The data word, `CW[43:28]` (30_encoding R71). -/
def wordField (cw : CmdWord) : Word := cw.extractLsb' 28 16

/-! ## Byte order (00_scope R19) -/

/-- `lo(w) = w[7:0]`. -/
def loByte (w : Word) : Byte := w.extractLsb' 0 8
/-- `hi(w) = w[15:8]`. -/
def hiByte (w : Word) : Byte := w.extractLsb' 8 8
/-- `le16(b0, b1)`: `b0` is the byte that came first and the low one. -/
def le16 (b0 b1 : Byte) : Word := (b1.setWidth 16 <<< 8) ||| b0.setWidth 16

/-! ## Which fields a command uses (30_encoding R70) -/

/-- A row of the table of 30_encoding R70: `true` is `U`, `false` is `Z`. `ADDR` is `U` in every row. -/
structure FieldUse where
  q : Bool
  len : Bool
  reg : Bool
  d0 : Bool
  d1 : Bool
  deriving DecidableEq, Repr

/-- The table of 30_encoding R70, by opcode; the reserved opcode uses no field. -/
def fieldUse (op : BitVec 4) : FieldUse :=
  match op.toNat with
  | 0 => ⟨true, false, false, false, false⟩
  | 1 => ⟨false, false, false, false, false⟩
  | 2 => ⟨false, false, false, true, false⟩
  | 3 => ⟨false, false, true, false, false⟩
  | 4 => ⟨false, false, true, false, false⟩
  | 5 => ⟨false, false, true, true, false⟩
  | 6 => ⟨false, false, true, true, true⟩
  | 7 => ⟨false, false, true, true, true⟩
  | 8 => ⟨false, false, true, false, false⟩
  | 9 => ⟨false, true, true, false, false⟩
  | 10 => ⟨false, true, true, false, false⟩
  | _ => ⟨false, false, false, false, false⟩

/-- Some field that 30_encoding R70 marks `Z` for the opcode of `cw` is not zero. -/
def unusedFieldSet (cw : CmdWord) : Bool :=
  (!(fieldUse (opField cw)).q && qField cw != 0) ||
  (!(fieldUse (opField cw)).len && lenField cw != 0) ||
  (!(fieldUse (opField cw)).reg && regField cw != 0) ||
  (!(fieldUse (opField cw)).d0 && d0Field cw != 0) ||
  (!(fieldUse (opField cw)).d1 && d1Field cw != 0)

/-- The opcode is `BLOCK_WRITE` or `BLOCK_PROC_CALL`. -/
def isBlockWriteOp (op : BitVec 4) : Bool := op == 9 || op == 10

/-- The opcode is one of the four passthrough commands. -/
def isPassthroughOp (op : BitVec 4) : Bool := op == 11 || op == 12 || op == 13 || op == 14

/-- The checks of admission that look at the command word alone, in the order of 30_encoding R75. -/
def wordRefusal (cw : CmdWord) : Option RefuseReason :=
  if opField cw = 0xF then some .reservedOpcode
  else if reservedLow cw ≠ 0 ∨ reservedHigh cw ≠ 0 then some .reservedBits
  else if unusedFieldSet cw then some .unusedField
  else if isBlockWriteOp (opField cw) ∧ 32 < (lenField cw).toNat then some .blockLength
  else none

/-! ## The decoder -/

/-- `data = [WB[0], ..., WB[L-1]]` (30_encoding R71). -/
def blockData (c : Cmd) : List Byte := c.wb.toList.take (lenField c.cw).toNat

/-- The command that the opcode names, with its operands (30_encoding R69, R71), where the word has passed `wordRefusal`.
A passthrough command whose descriptor has another command's shape, or that has none, is `PT_SHAPE` (30_encoding R75). -/
def decodeOperands (c : Cmd) : Except RefuseReason Instr :=
  match (opField c.cw).toNat with
  | 0 => .ok (.quick (addrField c.cw) (qField c.cw == 1))
  | 1 => .ok (.recvByte (addrField c.cw))
  | 2 => .ok (.sendByte (addrField c.cw) (d0Field c.cw))
  | 3 => .ok (.readByte (addrField c.cw) (regField c.cw))
  | 4 => .ok (.readWord (addrField c.cw) (regField c.cw))
  | 5 => .ok (.writeByte (addrField c.cw) (regField c.cw) (d0Field c.cw))
  | 6 => .ok (.writeWord (addrField c.cw) (regField c.cw) (wordField c.cw))
  | 7 => .ok (.procCall (addrField c.cw) (regField c.cw) (wordField c.cw))
  | 8 => .ok (.blockRead (addrField c.cw) (regField c.cw))
  | 9 => .ok (.blockWrite (addrField c.cw) (regField c.cw) (blockData c))
  | 10 => .ok (.blockProcCall (addrField c.cw) (regField c.cw) (blockData c))
  | 11 => match c.ptd with
    | some (.readPT n) => .ok (.i2cRead (addrField c.cw) n)
    | _ => .error .ptShape
  | 12 => match c.ptd with
    | some (.writePT bs) => .ok (.i2cWrite (addrField c.cw) bs)
    | _ => .error .ptShape
  | 13 => match c.ptd with
    | some (.writeReadPT bs n) => .ok (.i2cWriteRead (addrField c.cw) bs n)
    | _ => .error .ptShape
  | 14 => match c.ptd with
    | some (.txnPT segs) => .ok (.i2cTxn (addrField c.cw) segs)
    | _ => .error .ptShape
  | _ => .error .reservedOpcode

/-- The decoder, total on every presented command: the command it denotes, or the first failing check of 30_encoding R75 by
name. The last check, `PT_SIZE`, depends on the machine's parameters and is made by the commands it concerns. -/
def decode (c : Cmd) : Except RefuseReason Instr :=
  match wordRefusal c.cw with
  | some reason => .error reason
  | none => decodeOperands c

/-! ## The encoder (30_encoding R79) -/

/-- A command word from its fields, reserved bits zero (30_encoding R67). -/
def packWord (op : BitVec 4) (q : BitVec 1) (len : BitVec 6) (addr reg d0 d1 : Byte) : CmdWord :=
  (0#4 ++ d1 ++ d0 ++ reg ++ addr ++ 0#1 ++ len ++ q ++ op : BitVec (4 + 8 + 8 + 8 + 8 + 1 + 6 + 1 + 4))

/-- The opcode of a command (30_encoding R69). -/
def Instr.opcode : Instr → BitVec 4
  | .quick _ _ => 0x0
  | .recvByte _ => 0x1
  | .sendByte _ _ => 0x2
  | .readByte _ _ => 0x3
  | .readWord _ _ => 0x4
  | .writeByte _ _ _ => 0x5
  | .writeWord _ _ _ => 0x6
  | .procCall _ _ _ => 0x7
  | .blockRead _ _ => 0x8
  | .blockWrite _ _ _ => 0x9
  | .blockProcCall _ _ _ => 0xA
  | .i2cRead _ _ => 0xB
  | .i2cWrite _ _ => 0xC
  | .i2cWriteRead _ _ _ => 0xD
  | .i2cTxn _ _ => 0xE

/-- `LEN` of a block write: the number of its data bytes (30_encoding R71, R78). -/
def lengthField (data : List Byte) : BitVec 6 := BitVec.ofNat 6 data.length

/-- The command word of a command: each operand in the field 30_encoding R71 names, every other bit zero (R79). -/
def encodeWord : Instr → CmdWord
  | .quick addr flag => packWord 0x0 (BitVec.ofBool flag) 0 addr 0 0 0
  | .recvByte addr => packWord 0x1 0 0 addr 0 0 0
  | .sendByte addr byte => packWord 0x2 0 0 addr 0 byte 0
  | .readByte addr reg => packWord 0x3 0 0 addr reg 0 0
  | .readWord addr reg => packWord 0x4 0 0 addr reg 0 0
  | .writeByte addr reg byte => packWord 0x5 0 0 addr reg byte 0
  | .writeWord addr reg word => packWord 0x6 0 0 addr reg (loByte word) (hiByte word)
  | .procCall addr reg word => packWord 0x7 0 0 addr reg (loByte word) (hiByte word)
  | .blockRead addr reg => packWord 0x8 0 0 addr reg 0 0
  | .blockWrite addr reg data => packWord 0x9 0 (lengthField data) addr reg 0 0
  | .blockProcCall addr reg data => packWord 0xA 0 (lengthField data) addr reg 0 0
  | .i2cRead addr _ => packWord 0xB 0 0 addr 0 0 0
  | .i2cWrite addr _ => packWord 0xC 0 0 addr 0 0 0
  | .i2cWriteRead addr _ _ => packWord 0xD 0 0 addr 0 0 0
  | .i2cTxn addr _ => packWord 0xE 0 0 addr 0 0 0

/-- `WB` with the listed bytes in cells 0 on. The cells past them are ignored by the block (30_encoding R72); they are
written as zero here (log 14, DEDUCED). -/
def writeBufOf (data : List Byte) : WriteBuf := Vector.ofFn fun i : Fin 32 => (data[i.val]?).getD 0

/-- The command an assembler presents for an instruction (30_encoding R79). -/
def encode (i : Instr) : Cmd where
  cw := encodeWord i
  wb := writeBufOf i.data
  ptd := i.desc

/-! ## The opcode table (30_encoding R76, spec/opcode_table.json) -/

/-- A row of spec/opcode_table.json: a word belongs to it when `CW & mask = match`. -/
structure OpRow where
  mnemonic : String
  mask : CmdWord
  pattern : CmdWord
  deriving DecidableEq, Repr

/-- spec/opcode_table.json, in its order. -/
def opcodeTable : List OpRow :=
  [ ⟨"QUICK", 0xFFFFFFF00FEF, 0x000000000000⟩,
    ⟨"RECV_BYTE", 0xFFFFFFF00FFF, 0x000000000001⟩,
    ⟨"SEND_BYTE", 0xFFF00FF00FFF, 0x000000000002⟩,
    ⟨"READ_BYTE", 0xFFFFF0000FFF, 0x000000000003⟩,
    ⟨"READ_WORD", 0xFFFFF0000FFF, 0x000000000004⟩,
    ⟨"WRITE_BYTE", 0xFFF000000FFF, 0x000000000005⟩,
    ⟨"WRITE_WORD", 0xF00000000FFF, 0x000000000006⟩,
    ⟨"PROC_CALL", 0xF00000000FFF, 0x000000000007⟩ ] ++
  [ ⟨"BLOCK_READ", 0xFFFFF0000FFF, 0x000000000008⟩,
    ⟨"BLOCK_WRITE", 0xFFFFF000081F, 0x000000000009⟩,
    ⟨"BLOCK_PROC_CALL", 0xFFFFF000081F, 0x00000000000A⟩,
    ⟨"I2C_READ", 0xFFFFFFF00FFF, 0x00000000000B⟩,
    ⟨"I2C_WRITE", 0xFFFFFFF00FFF, 0x00000000000C⟩,
    ⟨"I2C_WRITE_READ", 0xFFFFFFF00FFF, 0x00000000000D⟩,
    ⟨"I2C_TXN", 0xFFFFFFF00FFF, 0x00000000000E⟩ ]

/-- The word belongs to the row. -/
def OpRow.matches (row : OpRow) (cw : CmdWord) : Bool := cw &&& row.mask == row.pattern

/-- The table's name of a command (30_encoding R69). -/
def Instr.mnemonic : Instr → String
  | .quick _ _ => "QUICK"
  | .recvByte _ => "RECV_BYTE"
  | .sendByte _ _ => "SEND_BYTE"
  | .readByte _ _ => "READ_BYTE"
  | .readWord _ _ => "READ_WORD"
  | .writeByte _ _ _ => "WRITE_BYTE"
  | .writeWord _ _ _ => "WRITE_WORD"
  | .procCall _ _ _ => "PROC_CALL"
  | .blockRead _ _ => "BLOCK_READ"
  | .blockWrite _ _ _ => "BLOCK_WRITE"
  | .blockProcCall _ _ _ => "BLOCK_PROC_CALL"
  | .i2cRead _ _ => "I2C_READ"
  | .i2cWrite _ _ => "I2C_WRITE"
  | .i2cWriteRead _ _ _ => "I2C_WRITE_READ"
  | .i2cTxn _ _ => "I2C_TXN"

/-! ## A word of the table on its own -/

/-- The descriptor "of zeros" of the shape that the opcode of `cw` asks for (log 17). -/
def zeroDesc (cw : CmdWord) : Option PTDesc :=
  match (opField cw).toNat with
  | 11 => some (.readPT 0)
  | 12 => some (.writePT [])
  | 13 => some (.writeReadPT [] 0)
  | 14 => some (.txnPT [])
  | _ => none

/-- The command of a word on its own: 32 zero bytes in `WB` and the descriptor of zeros (log 17). -/
def tableCmd (nbits w : Nat) : Cmd where
  cw := BitVec.ofNat 48 (w % 2 ^ nbits)
  wb := Vector.replicate 32 0
  ptd := zeroDesc (BitVec.ofNat 48 (w % 2 ^ nbits))

/-- What the decoder reads from a word of spec/opcode_table.json. -/
def decodeTableWord (nbits w : Nat) : Option Instr :=
  match decode (tableCmd nbits w) with
  | .ok i => some i
  | .error _ => none

end Sys2Proof
end

