-- ==== Sys2Proof/Machine/State.lean ====
section
/-! DEFINITION. The state of the block (10_state R23), its ports (R35), the observation a model records (00_scope R11), the acts
of the Caller and the Transport still to come, and the reset state (R43). -/

namespace Sys2Proof.Machine

/-- The controller state `FSM` (10_state R25). The fourth value of its 2 bits, 0b11, "is never written and is unreachable"; it
has no constructor (log 18, DEDUCED, safe). -/
inductive Fsm where
  | idle
  | busy
  | done
  deriving DecidableEq, Repr

/-- The result kind `RKIND` (10_state R31). Values 5 to 7 are "never written" and have no constructor (log 18, DEDUCED, safe). -/
inductive RKind where
  | none
  | byte
  | word
  | block
  | pt
  deriving DecidableEq, Repr

/-- The latched operand registers `OPR` (10_state R27 to R29); `none` is `⊥`. -/
structure Opr where
  cw : Option CmdWord
  wbuf : Cells
  ptd : Option PTDesc
  deriving DecidableEq, Repr

/-- `OPR` with every register at `⊥`. -/
def Opr.bottom : Opr where
  cw := none
  wbuf := Cells.bottom
  ptd := none

/-- The response record `RSP` (10_state R31); `none` is `⊥` in every field. -/
structure Rsp (E : Type := TransportError) where
  rstat : Option (BitVec 1)
  rerr : Option E
  rkind : Option RKind
  rbyte : Option Byte
  rword : Option Word
  rlen : Option (BitVec 6)
  rbuf : Cells
  rpt : Option ReadData
  deriving DecidableEq, Repr

/-- `RSP` with every field at `⊥`. -/
def Rsp.bottom {E : Type} : Rsp E where
  rstat := none
  rerr := none
  rkind := none
  rbyte := none
  rword := none
  rlen := none
  rbuf := Cells.bottom
  rpt := none

/-- A field of `RSP` the Caller can read; `rbuf i` is one cell (10_state R31, R41). -/
inductive RspField where
  | rstat
  | rerr
  | rkind
  | rbyte
  | rword
  | rlen
  | rbuf (cell : Fin 32)
  | rpt
  deriving DecidableEq, Repr

/-- The value of a field of `RSP` as the Caller reads it; `RKIND` is read in its 3-bit encoding (10_state R31). -/
inductive RspValue (E : Type := TransportError) where
  | stat (v : BitVec 1)
  | err (e : E)
  | kind (code : BitVec 3)
  | byte (b : Byte)
  | word (w : Word)
  | len (n : BitVec 6)
  | pt (d : ReadData)
  deriving DecidableEq, Repr

/-- The model faults a step records in `FAULT` (60_exceptions R120). The spec makes a fault a sticky piece of state from which
Reset recovers, so a step that faults answers a next state with the reason recorded, and no step of this model ends in
`Host.Outcome.fault` (log 8). -/
inductive Fault where
  /-- `BAD_TRANSPORT_RESPONSE`: recorded by the Respond move of any command when `TOk(d)` has not the shape of the request
  (20_memory R57). Safe: the spec's own, "toward unprovable". -/
  | badTransportResponse
  /-- `UNWRITTEN_READ`: recorded when the Caller reads a field of `RSP` that holds `⊥`, or a rule reads `⊥` (00_scope R15).
  Safe: the spec's own, "toward unprovable". -/
  | unwrittenRead
  deriving DecidableEq, Repr

/-- Why a step has no meaning. Every command of the table has its meaning, so nothing raises the one reason; the refusals of the
spec are recorded in `REFUSED` by a step that goes on (log 8). -/
inductive Refusal where
  /-- Raised by an arm of `exec` whose instruction has no meaning yet: there is none. Safe. -/
  | notModelled (mnemonic : String)
  deriving DecidableEq, Repr

/-- How an accepted command ended: its response was delivered by Ack, or it was cancelled (00_scope R11). -/
inductive CmdEnd (E : Type := TransportError) where
  | response (r : Rsp E)
  | cancelled
  deriving DecidableEq, Repr

/-- One pair of the observation: the command accepted, as latched, and how it ended (00_scope R11; log 11). -/
structure ObsEntry (E : Type := TransportError) where
  cmd : Opr
  ending : CmdEnd E
  deriving DecidableEq, Repr

/-- What happens on the transport port on the block's side: a request is issued, or withdrawn (10_state R35, R36, R39). -/
inductive PortEvent where
  | request (q : TReq)
  | withdrawn (q : TReq)
  deriving DecidableEq, Repr

/-- An act of the Caller or the Transport that reaches the block (00_scope R10; 10_state R35). -/
inductive Input (E : Type := TransportError) where
  /-- The Caller presents a command on the command port (10_state R36, 70 R135). -/
  | present (c : Cmd)
  /-- The Transport answers the outstanding request (10_state R37). What the device did is no part of the state (log 21). -/
  | respond (r : TRsp E)
  /-- The Caller acknowledges the response (10_state R38). -/
  | ack
  /-- The Caller cancels the command in progress (10_state R39). -/
  | cancel
  /-- The Caller reads a field of the response record (10_state R41, 70 R136). -/
  | read (f : RspField)
  /-- The reset input (10_state R40). -/
  | reset
  deriving DecidableEq, Repr

/-- The state of the machine: the nine pieces of 10_state R23, then the ports, the observation and the model's own fields. Its argument
is the parameter `E` (00_scope R8); `State` alone is the state of the machine whose errors are `TransportError`s (log 1). -/
structure State (E : Type := TransportError) where
  /-- `FSM`, the controller state. -/
  fsm : Fsm
  /-- `OPR`, the latched operands. -/
  opr : Opr
  /-- `TREQ`, the outstanding transport request. -/
  treq : Option TReq
  /-- `STAGE`, the block-read staging buffer. -/
  stage : Cells
  /-- `RSP`, the response record. -/
  rsp : Rsp E
  /-- `FAULT`, the sticky model fault. -/
  fault : Option Fault
  /-- `REFUSED`, the sticky model refusal. -/
  refused : Option RefuseReason
  /-- Command port: the one command presented and not yet accepted (70 R135). -/
  cmdPort : Option Cmd
  /-- Transport port: the withdraw indication (10_state R35, R39; log 12). -/
  withdraw : Option TReq
  /-- Observation on the command port, oldest first (00_scope R11). -/
  obs : List (ObsEntry E)
  /-- Observation on the transport port, oldest first (00_scope R11). -/
  treqLog : List PortEvent
  /-- The model's own: what the Caller has read out of `RSP`, oldest first (70 R136; log 9). -/
  callerReads : List (RspValue E)
  /-- The model's own: the acts of the Caller and the Transport still to come, in order (log 3). -/
  inputs : List (Input E)
  /-- The OPEN parameters of this machine, which no step changes (00_scope R8; log 2). -/
  params : Params
  deriving DecidableEq, Repr

/-- The reset state of a machine with parameters `p` (10_state R43): `FSM` IDLE, `TREQ` none, `OPR`, `STAGE` and `RSP` all `⊥`,
no mark; the observation is empty (70 R130). Nothing is presented, withdrawn, read or still to come: DESIGN CHOICE (logs 3, 9,
12, 13), the spec gives the ports no reset value. -/
def State.resetWith {E : Type} (p : Params) : State E where
  fsm := .idle
  opr := Opr.bottom
  treq := none
  stage := Cells.bottom
  rsp := Rsp.bottom
  fault := none
  refused := none
  cmdPort := none
  withdraw := none
  obs := []
  treqLog := []
  callerReads := []
  inputs := []
  params := p

/-- The machine right after reset (10_state R43), with the parameters of log 2. -/
def State.reset : State := State.resetWith Config.resetParams

end Sys2Proof.Machine
end

