-- ==== Sys2Proof/Machine/Operands.lean ====
section
/-! DEFINITION. The operand forms: what is latched from a command and read back (10_state R27 to R29, R36), the requests'
byte lists (20_memory R49, R52; 41_smbus_block R98), the read shape of a request (20_memory R57), and the size check of the
passthrough descriptors (30_encoding R73). -/

namespace Sys2Proof.Machine

/-- Cells that hold the listed bytes from cell 0 on and `⊥` after them (10_state R28, R31). Bytes past cell 31 have no cell. -/
def cellsOf (bs : List Byte) : Cells := Vector.ofFn fun i : Fin 32 => bs[i.val]?

/-- The first `n` cells as bytes, or `none` if one of them holds `⊥`. -/
def cellsRead (n : Nat) (cells : Cells) : Option (List Byte) := (cells.toList.take n).mapM id

/-- What Issue latches of a command (10_state R36): the word; the first `LEN` bytes of `WB` for a block write, else `⊥`; the
descriptor for a passthrough command, else `⊥`. -/
def latch (c : Cmd) : Opr where
  cw := some c.cw
  wbuf := if isBlockWriteOp (opField c.cw) then cellsOf (blockData c) else Cells.bottom
  ptd := if isPassthroughOp (opField c.cw) then c.ptd else none

/-- The command the latched operands hold (40 R83: frame and deframe are functions of `OPR`), or `none` where a register it
needs holds `⊥` or the word denotes no command, which happens in no state a run reaches. -/
def Opr.command (o : Opr) : Option Instr :=
  match o.cw with
  | none => none
  | some cw =>
    match cellsRead (lenField cw).toNat o.wbuf with
    | none => none
    | some data =>
      match decode ⟨cw, writeBufOf data, o.ptd⟩ with
      | .ok i => some i
      | .error _ => none

/-! ## Byte lists of the requests -/

/-- A register/command code and a word after it, low byte first (20_memory R49; 40 R87). -/
def regWord (reg : Byte) (word : Word) : List Byte := [reg, loByte word, hiByte word]

/-- The length-prefix byte of a block write, `zext_8(L)` with `L` the length field (30_encoding R71; 41_smbus_block R98). -/
def lengthByte (data : List Byte) : Byte := (lengthField data).setWidth 8

/-- A register/command code and the length prefix after it: the first segment of a block write (41_smbus_block R98). -/
def regLength (reg : Byte) (data : List Byte) : List Byte := [reg, lengthByte data]

/-! ## The transport contract (20_memory R57) -/

/-- The lengths of the read parts of a list of segments, in order. -/
def segReadShape : List Seg → List Nat
  | [] => []
  | .write _ :: segs => segReadShape segs
  | .read n :: segs => n :: segReadShape segs

/-- `readShape(q)`. -/
def readShape : TReq → List Nat
  | .read _ n => [n]
  | .write _ _ => []
  | .writeRead _ _ n => [n]
  | .txn _ segs => segReadShape segs

/-- `shapeOK(q, d)`: as many parts as the request reads, each of the length it asked for. -/
def shapeOK (q : TReq) (d : ReadData) : Bool := d.map List.length == readShape q

/-- Byte `j` of read part `k`, `d[k][j]`. -/
def byteAt (d : ReadData) (k j : Nat) : Option Byte := (d[k]?).bind fun part => part[j]?

/-! ## Checks of admission that depend on the operands (30_encoding R75) -/

/-- `BLOCK_LENGTH`: more than 32 data bytes. The decoder has made this check on the length field already. -/
def blockCheck (data : List Byte) : Option RefuseReason := if blockDataFits data then none else some .blockLength

/-- `PT_SIZE`: the descriptor exceeds `MAX_PT_BYTES` or `MAX_PT_SEGS`. -/
def sizeCheck (p : Params) (desc : PTDesc) : Option RefuseReason := if desc.fits p then none else some .ptSize

end Sys2Proof.Machine
end

