-- ==== Sys2Proof/Machine/Flags.lean ====
section
/-! DEFINITION. The response record: the status flag `RSTAT`, the result kinds, the records each outcome of a command writes
(10_state R31, R32; 40 R86; 60_exceptions R114), the block decoding (41 R99, R100) and the Caller's reading of a field. -/

namespace Sys2Proof.Machine

variable {E : Type}

/-- The 2-bit encoding of `FSM` (10_state R25). -/
def Fsm.code : Fsm → BitVec 2
  | .idle => 0b00
  | .busy => 0b01
  | .done => 0b10

/-- The 3-bit encoding of `RKIND` (10_state R31). -/
def RKind.code : RKind → BitVec 3
  | .none => 0
  | .byte => 1
  | .word => 2
  | .block => 3
  | .pt => 4

/-- `RSTAT` = 0: OK (10_state R31). -/
def statOK : BitVec 1 := 0
/-- `RSTAT` = 1: ERR (10_state R31). -/
def statErr : BitVec 1 := 1

/-- `{RSTAT = 0}` with a result kind and no result field. -/
def Rsp.okOf (kind : RKind) : Rsp E := { Rsp.bottom with rstat := some statOK, rkind := some kind }

/-- `{RSTAT = 0, RKIND = NONE}`. -/
def Rsp.okNone : Rsp E := Rsp.okOf .none

/-- `{RSTAT = 0, RKIND = BYTE, RBYTE = b}`. -/
def Rsp.okByte (b : Byte) : Rsp E := { Rsp.okOf .byte with rbyte := some b }

/-- `{RSTAT = 0, RKIND = WORD, RWORD = w}`. -/
def Rsp.okWord (w : Word) : Rsp E := { Rsp.okOf .word with rword := some w }

/-- `{RSTAT = 0, RKIND = BLOCK, RLEN = n, RBUF = buf}`. -/
def Rsp.okBlock (n : Nat) (buf : Cells) : Rsp E :=
  { Rsp.okOf .block with rlen := some (BitVec.ofNat 6 n), rbuf := buf }

/-- `{RSTAT = 0, RKIND = PT, RPT = d}`: the read data unchanged (42 R107, R112). -/
def Rsp.okPT (d : ReadData) : Rsp E := { Rsp.okOf .pt with rpt := some d }

/-- `{RSTAT = 1, RERR = e}`, every other field `⊥` (60_exceptions R114, R117). -/
def Rsp.error (e : E) : Rsp E := { (Rsp.bottom : Rsp E) with rstat := some statErr, rerr := some e }

/-! ## What a successful answer writes -/

/-- What the Respond move writes on success: the response, and the staging buffer where the command writes it. -/
structure Result (E : Type := TransportError) where
  rsp : Rsp E
  stage : Option Cells
  deriving DecidableEq, Repr

/-- A result that leaves `STAGE` alone (40 R86). -/
def Result.plain (r : Rsp E) : Result E where
  rsp := r
  stage := none

/-- `RKIND <- NONE`. -/
def deframeNone (_ : ReadData) : Option (Result E) := some (Result.plain Rsp.okNone)

/-- `RKIND <- BYTE; RBYTE <- d[0][0]` (40 R88). -/
def deframeByte (d : ReadData) : Option (Result E) :=
  match byteAt d 0 0 with
  | some b => some (Result.plain (Rsp.okByte b))
  | none => none

/-- `RKIND <- WORD; RWORD <- le16(d[0][0], d[0][1])` (40 R88). -/
def deframeWord (d : ReadData) : Option (Result E) :=
  match byteAt d 0 0, byteAt d 0 1 with
  | some b0, some b1 => some (Result.plain (Rsp.okWord (le16 b0 b1)))
  | _, _ => none

/-- `RKIND <- PT; RPT <- d` (42 R108 to R111). -/
def deframePT (d : ReadData) : Option (Result E) := some (Result.plain (Rsp.okPT d))

/-- `STAGE[i] <- d[0][i]` for every `i` from 0 to 31 (41 R99). -/
def stageFill (d : ReadData) : Cells := Vector.ofFn fun i : Fin 32 => byteAt d 0 i.val

/-- The effective length `min(N + 1, 32)`, in the natural numbers (41 R100). -/
def effectiveLength (prefixByte : Byte) : Nat := min (prefixByte.toNat + 1) 32

/-- The first `n` cells, and `⊥` from cell `n` on (41 R100). -/
def cellsTake (n : Nat) (cells : Cells) : Cells :=
  Vector.ofFn fun i : Fin 32 => if i.val < n then cells[i.val] else none

/-- `blockDecode(STAGE)`: the length prefix is element 0 of the result and is kept (41 R100, R106). -/
def blockDecode (stage : Cells) : Option (Rsp E) :=
  match stage[0] with
  | some n => some (Rsp.okBlock (effectiveLength n) (cellsTake (effectiveLength n) stage))
  | none => none

/-- The deframe of a block read: fill `STAGE`, then decode it (41 R102, R104). -/
def deframeBlock (d : ReadData) : Option (Result E) :=
  match blockDecode (stageFill d) with
  | some r => some ⟨r, some (stageFill d)⟩
  | none => none

/-! ## Reading the response record -/

/-- The value a field of `RSP` holds, or `none` where it holds `⊥` (10_state R31). -/
def Rsp.field (r : Rsp E) : RspField → Option (RspValue E)
  | .rstat => r.rstat.map .stat
  | .rerr => r.rerr.map .err
  | .rkind => r.rkind.map fun k => .kind k.code
  | .rbyte => r.rbyte.map .byte
  | .rword => r.rword.map .word
  | .rlen => r.rlen.map .len
  | .rbuf i => (r.rbuf[i.val]).map .byte
  | .rpt => r.rpt.map .pt

end Sys2Proof.Machine
end

