-- ==== Sys2Proof/Machine/Ops.lean ====
section
/-! DEFINITION. The moves of the block: Issue, Respond, Ack, Cancel, Reset (10_state R36 to R40), the Caller's presenting and
reading, the record of a fault or a refusal (60_exceptions R120, R121), and which move comes next. -/

namespace Sys2Proof.Machine

variable {E : Type}

/-! ## Indications of the command port (10_state R35) -/

/-- The ready indication: `FSM` = IDLE. -/
def State.ready (s : State E) : Bool := s.fsm == .idle

/-- The response-valid indication: `FSM` = DONE. -/
def State.rspValid (s : State E) : Bool := s.fsm == .done

/-- A fault or a refusal is recorded: no step but Reset is enabled (10_state R34). -/
def State.marked (s : State E) : Bool := s.fault.isSome || s.refused.isSome

/-! ## Taking an exception (60_exceptions) -/

/-- `refuse F`: record the refusal; the command is not latched and no request is issued (60_exceptions R121). The refusal ends the
command's presentation, so the command port is free (log 20, DESIGN CHOICE). -/
def State.refuse (F : RefuseReason) (s : State E) : State E := { s with refused := some F, cmdPort := none }

/-- `fault F`: record the fault and leave every other piece of state as it was (60_exceptions R120). -/
def State.raiseFault (F : Fault) (s : State E) : State E := { s with fault := some F }

/-- `raise TransportError(e)`: the error is saved unchanged in `RSP`, the request is over, the response is presented
(60_exceptions R114, R124). -/
def State.raiseTransportError (e : E) (s : State E) : State E :=
  { s with rsp := Rsp.error e, treq := none, fsm := .done }

/-! ## The moves of a command -/

/-- The next input has been taken. -/
def State.dropInput (s : State E) : State E := { s with inputs := s.inputs.tail }

/-- Issue of an admitted command (10_state R36): latch the operands, clear `STAGE` and `RSP`, issue the one request. The command
port is free again and the withdraw indication of an earlier request ends (log 12). -/
def State.issue (o : Opr) (q : TReq) (s : State E) : State E :=
  { s with
    opr := o
    stage := Cells.bottom
    rsp := Rsp.bottom
    treq := some q
    fsm := .busy
    cmdPort := none
    withdraw := none
    treqLog := s.treqLog ++ [.request q] }

/-- A successful answer is decoded (10_state R37). -/
def State.finish (r : Result E) (s : State E) : State E :=
  { s with rsp := r.rsp, stage := r.stage.getD s.stage, treq := none, fsm := .done }

/-- Respond to the outstanding request `q` with a successful answer: the shape is checked before anything is written
(10_state R37; 60_exceptions R122). -/
def State.respondOk (q : TReq) (deframe : ReadData → Option (Result E)) (d : ReadData) (s : State E) : State E :=
  if shapeOK q d then
    match deframe d with
    | some r => s.finish r
    | none => s.raiseFault .unwrittenRead
  else s.raiseFault .badTransportResponse

/-- Transport.Respond (10_state R37). -/
def State.respond (q : TReq) (deframe : ReadData → Option (Result E)) (r : TRsp E) (s : State E) : State E :=
  match r with
  | .ok d => s.respondOk q deframe d
  | .err e => s.raiseTransportError e

/-- The next move of a command, given by the check its operands must pass, the request its frame gives and its deframe
(40 R82): in IDLE it is issued or refused; in BUSY, where the Transport's answer stands next, it is decoded. Where no move of
the command is enabled it waits and nothing changes (70 R135, R140; log 15, DESIGN CHOICE). -/
def runCommand (check : Option RefuseReason) (i : Instr) (q : TReq) (deframe : ReadData → Option (Result E)) (s : State E) :
    Host.Outcome (State E) Fault Refusal :=
  if s.marked then .next s
  else
    match s.fsm with
    | .idle =>
      match check with
      | some F => .next (s.refuse F)
      | none => .next (s.issue (latch (encode i)) q)
    | .busy =>
      match s.treq, s.inputs.head? with
      | some asked, some (.respond r) => .next (s.dropInput.respond asked deframe r)
      | _, _ => .next s
    | .done => .next s

/-! ## The Caller's moves -/

/-- `OPR`, `STAGE` and `RSP` are cleared and the block is IDLE: the end of a command (10_state R38, R39). -/
def State.clearCommand (s : State E) : State E :=
  { s with opr := Opr.bottom, stage := Cells.bottom, rsp := Rsp.bottom, fsm := .idle }

/-- The observation records a pair (00_scope R11). -/
def State.observe (ending : CmdEnd E) (s : State E) : State E := { s with obs := s.obs ++ [⟨s.opr, ending⟩] }

/-- The outstanding request is withdrawn (10_state R39): the transport port shows it and the log records it. With none outstanding,
which no run reaches in BUSY, there is nothing to withdraw (log 19, DESIGN CHOICE). -/
def State.withdrawRequest (s : State E) : State E :=
  match s.treq with
  | some q => { s with treq := none, withdraw := some q, treqLog := s.treqLog ++ [.withdrawn q] }
  | none => s

/-- Caller.Ack (10_state R38): delivers `RSP` in DONE; elsewhere it is not enabled and nothing changes. -/
def State.ack (s : State E) : State E :=
  match s.fsm with
  | .done => (s.observe (.response s.rsp)).clearCommand
  | .idle => s
  | .busy => s

/-- Caller.Cancel (10_state R39): withdraws the request in BUSY; in IDLE and DONE it has no effect. -/
def State.cancel (s : State E) : State E :=
  match s.fsm with
  | .busy => (s.observe .cancelled).withdrawRequest.clearCommand
  | .idle => s
  | .done => s

/-- The Caller presents a command: it stands on the port, unlatched, until it is accepted (70 R135). The port holds at most one
command, so presenting another meanwhile has no effect (log 5, DESIGN CHOICE). -/
def State.present (c : Cmd) (s : State E) : State E :=
  match s.cmdPort with
  | none => { s with cmdPort := some c }
  | some _ => s

/-- The Caller reads a field of `RSP`: readable only in DONE, and reading `⊥` is the fault (70 R136; 60_exceptions R120; log 10,
DEDUCED). -/
def State.readField (f : RspField) (s : State E) : State E :=
  match s.fsm, s.rsp.field f with
  | .done, some v => { s with callerReads := s.callerReads ++ [v] }
  | _, _ => s.raiseFault .unwrittenRead

/-- Reset (10_state R40, R43): every piece of state at its reset value and a new run (70 R130); a request outstanding is withdrawn
as Cancel does (70 R131). The parameters are the machine's, and what comes later still comes (log 13). -/
def State.takeReset (s : State E) : State E :=
  { State.resetWith s.params with withdraw := s.treq, inputs := s.inputs.tail }

/-! ## Which move comes next -/

/-- A move of the machine: a move of a command, or the state a Caller's act leads to. -/
inductive Move (E : Type := TransportError) where
  | run (i : Instr)
  | become (s : State E)
  deriving DecidableEq, Repr

/-- The command that can be accepted now: one is presented and `FSM` = IDLE (10_state R36). -/
def State.acceptable (s : State E) : Option Cmd :=
  match s.fsm with
  | .idle => s.cmdPort
  | .busy => none
  | .done => none

/-- Acceptance of the presented command: it is decoded, or refused by the first failing check (30_encoding R75). -/
def State.acceptMove (c : Cmd) (s : State E) : Move E :=
  match decode c with
  | .ok i => .run i
  | .error F => .become (s.refuse F)

/-- The Transport's answer stands next. In BUSY with a request outstanding the latched command decodes it (10_state R37; 40 R83);
a rule that finds `⊥` there faults (00_scope R15). Otherwise it answers nothing the block asked, and is dropped (93 I14; log 7). -/
def State.answerMove (s : State E) : Move E :=
  match s.fsm, s.treq with
  | .busy, some _ =>
    match s.opr.command with
    | some i => .run i
    | none => .become (s.dropInput.raiseFault .unwrittenRead)
  | _, _ => .become s.dropInput

/-- The effect of an input whose turn it is, other than an answer. -/
def State.takeInput (inp : Input E) (s : State E) : State E :=
  match inp with
  | .present c => s.dropInput.present c
  | .respond _ => s.dropInput
  | .ack => s.dropInput.ack
  | .cancel => s.dropInput.cancel
  | .read f => s.dropInput.readField f
  | .reset => s.takeReset

/-- An unmarked machine's move when no reset stands next: a command that can be accepted is accepted first (log 4), then the next
input takes its turn; without one the block waits (70 R132, R140; log 3). -/
def State.ordinaryMove (s : State E) : Move E :=
  match s.acceptable, s.inputs.head? with
  | some c, _ => s.acceptMove c
  | none, none => .become s
  | none, some (.respond _) => s.answerMove
  | none, some inp => .become (s.takeInput inp)

/-- The next move. Reset takes precedence over every other step (60_exceptions R123). While a fault or a refusal is recorded no
other step is enabled, so any other input passes without effect (10_state R34; log 6). -/
def State.nextMove (s : State E) : Move E :=
  match s.inputs.head? with
  | some .reset => .become s.takeReset
  | _ => if s.marked then .become s.dropInput else s.ordinaryMove

/-- `inputs` without the resets that stand first. -/
def dropResets : List (Input E) → List (Input E)
  | .reset :: rest => dropResets rest
  | inputs => inputs

/-- The machine with a command presented and able to accept it next: IDLE, no mark, no reset standing first (log 17). -/
def State.withCommand (s : State E) (c : Cmd) : State E :=
  { s with fsm := .idle, fault := none, refused := none, cmdPort := some c, inputs := dropResets s.inputs }

end Sys2Proof.Machine
end

