-- ==== Sys2Proof/Machine/Block.lean ====
section
/-! DEFINITION. The block commands and the length prefix (41_smbus_block): for each its frame and its meaning. -/

namespace Sys2Proof.Machine

/-- Block Read: one write-then-read, the register byte out and always 32 bytes in (41 R101, R102). -/
def frameBlockRead (addr reg : Byte) : TReq := .writeRead addr [reg] 32

/-- BLOCK_READ (41 R102). -/
def execBlockRead (addr reg : Byte) (s : State) : Host.Outcome State Fault Refusal :=
  runCommand none (.blockRead addr reg) (frameBlockRead addr reg) deframeBlock s

/-- Block Write: one transaction of two write segments, [register, length] and the data (41 R98, R103). -/
def frameBlockWrite (addr reg : Byte) (data : List Byte) : TReq :=
  .txn addr [.write (regLength reg data), .write data]

/-- BLOCK_WRITE (41 R103). -/
def execBlockWrite (addr reg : Byte) (data : List Byte) (s : State) : Host.Outcome State Fault Refusal :=
  runCommand (blockCheck data) (.blockWrite addr reg data) (frameBlockWrite addr reg data) deframeNone s

/-- Block Read Process Call: one transaction of three segments, a block write's two and a read of 32 bytes (41 R104). -/
def frameBlockProcCall (addr reg : Byte) (data : List Byte) : TReq :=
  .txn addr [.write (regLength reg data), .write data, .read 32]

/-- BLOCK_PROC_CALL (41 R104). -/
def execBlockProcCall (addr reg : Byte) (data : List Byte) (s : State) : Host.Outcome State Fault Refusal :=
  runCommand (blockCheck data) (.blockProcCall addr reg data) (frameBlockProcCall addr reg data) deframeBlock s

end Sys2Proof.Machine
end

