-- ==== Sys2Proof/Machine/ByteWord.lean ====
section
/-! DEFINITION. The quick, byte, word and process-call commands (40_smbus_byte_word): for each its frame, the one transport request
it issues, and its meaning. -/

namespace Sys2Proof.Machine

/-- Quick Command: a read of zero bytes, or an empty write (40 R89). -/
def frameQuick (addr : Byte) (flag : Bool) : TReq := if flag then .read addr 0 else .write addr []

/-- QUICK (40 R89). -/
def execQuick (addr : Byte) (flag : Bool) (s : State) : Host.Outcome State Fault Refusal :=
  runCommand none (.quick addr flag) (frameQuick addr flag) deframeNone s

/-- Receive Byte: one read of 1 byte (40 R90). -/
def frameRecvByte (addr : Byte) : TReq := .read addr 1

/-- RECV_BYTE (40 R90). -/
def execRecvByte (addr : Byte) (s : State) : Host.Outcome State Fault Refusal :=
  runCommand none (.recvByte addr) (frameRecvByte addr) deframeByte s

/-- Send Byte: one write of the data byte, with no register byte before it (40 R91). -/
def frameSendByte (addr byte : Byte) : TReq := .write addr [byte]

/-- SEND_BYTE (40 R91). -/
def execSendByte (addr byte : Byte) (s : State) : Host.Outcome State Fault Refusal :=
  runCommand none (.sendByte addr byte) (frameSendByte addr byte) deframeNone s

/-- Read Byte: one write-then-read, the register byte out and 1 byte in (40 R92). -/
def frameReadByte (addr reg : Byte) : TReq := .writeRead addr [reg] 1

/-- READ_BYTE (40 R92). -/
def execReadByte (addr reg : Byte) (s : State) : Host.Outcome State Fault Refusal :=
  runCommand none (.readByte addr reg) (frameReadByte addr reg) deframeByte s

/-- Read Word: one write-then-read, the register byte out and 2 bytes in (40 R93). -/
def frameReadWord (addr reg : Byte) : TReq := .writeRead addr [reg] 2

/-- READ_WORD (40 R93). -/
def execReadWord (addr reg : Byte) (s : State) : Host.Outcome State Fault Refusal :=
  runCommand none (.readWord addr reg) (frameReadWord addr reg) deframeWord s

/-- Write Byte: one write of [register, byte] (40 R94). -/
def frameWriteByte (addr reg byte : Byte) : TReq := .write addr [reg, byte]

/-- WRITE_BYTE (40 R94). -/
def execWriteByte (addr reg byte : Byte) (s : State) : Host.Outcome State Fault Refusal :=
  runCommand none (.writeByte addr reg byte) (frameWriteByte addr reg byte) deframeNone s

/-- Write Word: one write of [register, low byte, high byte] (40 R95). -/
def frameWriteWord (addr reg : Byte) (word : Word) : TReq := .write addr (regWord reg word)

/-- WRITE_WORD (40 R95). -/
def execWriteWord (addr reg : Byte) (word : Word) (s : State) : Host.Outcome State Fault Refusal :=
  runCommand none (.writeWord addr reg word) (frameWriteWord addr reg word) deframeNone s

/-- Process Call: one transaction of two segments, [register, low byte, high byte] out and 2 bytes in (40 R96). -/
def frameProcCall (addr reg : Byte) (word : Word) : TReq := .txn addr [.write (regWord reg word), .read 2]

/-- PROC_CALL (40 R96). -/
def execProcCall (addr reg : Byte) (word : Word) (s : State) : Host.Outcome State Fault Refusal :=
  runCommand none (.procCall addr reg word) (frameProcCall addr reg word) deframeWord s

end Sys2Proof.Machine
end

