-- ==== Sys2Proof/Machine/Passthrough.lean ====
section
/-! DEFINITION. The passthrough commands, which forward one primitive unchanged (42_passthrough), and how one block's transport port
drives another block's command port (42 R113). -/

namespace Sys2Proof.Machine

/-- `read(address, buffer)` (42 R108). -/
def frameI2cRead (addr : Byte) (n : Nat) : TReq := .read addr n

/-- I2C_READ (42 R108). -/
def execI2cRead (addr : Byte) (n : Nat) (s : State) : Host.Outcome State Fault Refusal :=
  runCommand (sizeCheck s.params (.readPT n)) (.i2cRead addr n) (frameI2cRead addr n) deframePT s

/-- `write(address, bytes)` (42 R109). -/
def frameI2cWrite (addr : Byte) (bs : List Byte) : TReq := .write addr bs

/-- I2C_WRITE (42 R109). -/
def execI2cWrite (addr : Byte) (bs : List Byte) (s : State) : Host.Outcome State Fault Refusal :=
  runCommand (sizeCheck s.params (.writePT bs)) (.i2cWrite addr bs) (frameI2cWrite addr bs) deframePT s

/-- `write_then_read(address, writeBytes, readBuffer)` (42 R110). -/
def frameI2cWriteRead (addr : Byte) (bs : List Byte) (n : Nat) : TReq := .writeRead addr bs n

/-- I2C_WRITE_READ (42 R110). -/
def execI2cWriteRead (addr : Byte) (bs : List Byte) (n : Nat) (s : State) : Host.Outcome State Fault Refusal :=
  runCommand (sizeCheck s.params (.writeReadPT bs n)) (.i2cWriteRead addr bs n) (frameI2cWriteRead addr bs n) deframePT s

/-- `transaction(address, segments)` (42 R111). -/
def frameI2cTxn (addr : Byte) (segs : List Seg) : TReq := .txn addr segs

/-- I2C_TXN (42 R111). -/
def execI2cTxn (addr : Byte) (segs : List Seg) (s : State) : Host.Outcome State Fault Refusal :=
  runCommand (sizeCheck s.params (.txnPT segs)) (.i2cTxn addr segs) (frameI2cTxn addr segs) deframePT s

/-! ## Chaining (42 R113) -/

/-- The passthrough command of a lower block that carries a request of the block above it. -/
def chainCommand : TReq → Instr
  | .read addr n => .i2cRead addr n
  | .write addr bs => .i2cWrite addr bs
  | .writeRead addr bs n => .i2cWriteRead addr bs n
  | .txn addr segs => .i2cTxn addr segs

/-- The answer the block above receives from the response of a passthrough command: the read data of a success (42 R112), the
error unchanged, or none where the record is neither. -/
def chainAnswer {E : Type} (r : Rsp E) : Option (TRsp E) :=
  match r.rerr, r.rpt with
  | some e, _ => some (.err e)
  | none, some d => some (.ok d)
  | none, none => none

end Sys2Proof.Machine
end

