-- ==== Sys2Proof/Machine/Dispatch.lean ====
section
/-! DEFINITION. The one match from a command to its meaning. -/

namespace Sys2Proof.Machine

def exec (i : Instr) (s : State) : Host.Outcome State Fault Refusal :=
  match i with
  | .quick addr flag => Sys2Proof.Machine.execQuick addr flag s
  | .recvByte addr => Sys2Proof.Machine.execRecvByte addr s
  | .sendByte addr byte => Sys2Proof.Machine.execSendByte addr byte s
  | .readByte addr reg => Sys2Proof.Machine.execReadByte addr reg s
  | .readWord addr reg => Sys2Proof.Machine.execReadWord addr reg s
  | .writeByte addr reg byte => Sys2Proof.Machine.execWriteByte addr reg byte s
  | .writeWord addr reg word => Sys2Proof.Machine.execWriteWord addr reg word s
  | .procCall addr reg word => Sys2Proof.Machine.execProcCall addr reg word s
  | .blockRead addr reg => Sys2Proof.Machine.execBlockRead addr reg s
  | .blockWrite addr reg data => Sys2Proof.Machine.execBlockWrite addr reg data s
  | .blockProcCall addr reg data => Sys2Proof.Machine.execBlockProcCall addr reg data s
  | .i2cRead addr n => Sys2Proof.Machine.execI2cRead addr n s
  | .i2cWrite addr bs => Sys2Proof.Machine.execI2cWrite addr bs s
  | .i2cWriteRead addr bs n => Sys2Proof.Machine.execI2cWriteRead addr bs n s
  | .i2cTxn addr segs => Sys2Proof.Machine.execI2cTxn addr segs s

end Sys2Proof.Machine
end

