-- ==== Sys2Proof/Machine/Step.lean ====
section
/-! DEFINITION. One step of the machine, and how a command is placed where the next step runs it. -/

namespace Sys2Proof.Machine

/-- One step: a move of the command that is accepted or answered, or an act of the Caller (10_state R36 to R40). -/
def step (s : State) : Host.Outcome State Fault Refusal :=
  match s.nextMove with
  | .run i => exec i s
  | .become t => .next t

/-- The machine with a command word of `nbits` bits presented, so that the next step accepts and runs it (log 17). -/
def State.withFetchWord (s : State) (nbits w : Nat) : State := s.withCommand (tableCmd nbits w)

end Sys2Proof.Machine
end

