-- ==== Sys2Proof/Machine/Assembler.lean ====
section
/-! DEFINITION. The assembler: from the text of a command line to the command it presents (30_encoding R78, R79).
What R78 leaves open of the text (blanks, letter case) is log 22, DESIGN CHOICE. -/

namespace Sys2Proof

/-! ## Tokens (30_encoding R78) -/

/-- A token of a command line. -/
inductive AsmToken where
  | name (cs : List Char)
  | num (n : Nat)
  | comma
  | openBrace
  | closeBrace
  | openBracket
  | closeBracket
  deriving DecidableEq, Repr

/-- The value of a digit, decimal or hexadecimal. -/
def digitValue (c : Char) : Option Nat :=
  if '0' ≤ c ∧ c ≤ '9' then some (c.toNat - 48)
  else if 'a' ≤ c ∧ c ≤ 'f' then some (c.toNat - 87)
  else if 'A' ≤ c ∧ c ≤ 'F' then some (c.toNat - 55)
  else none

/-- Digits read in a base, most significant first, after a value already read. -/
def digitsValue (base : Nat) : Nat → List Char → Option Nat
  | acc, [] => some acc
  | acc, c :: cs =>
    match digitValue c with
    | some d => if d < base then digitsValue base (acc * base + d) cs else none
    | none => none

/-- A number, "decimal or `0x` hexadecimal". -/
def asmNumber : List Char → Option Nat
  | [] => none
  | ['0', 'x'] => none
  | '0' :: 'x' :: ds => digitsValue 16 0 ds
  | ds => digitsValue 10 0 ds

/-- A word of the line, its characters collected in reverse: a number if it begins with a digit, else a name. -/
def wordToken (word : List Char) : Option (List AsmToken) :=
  match word.reverse with
  | [] => some []
  | c :: cs =>
    if '0' ≤ c ∧ c ≤ '9' then (asmNumber (c :: cs)).map fun n => [.num n]
    else some [.name (c :: cs)]

/-- The token of a punctuation character; braces are 0x7B and 0x7D. -/
def punctToken (c : Char) : Option AsmToken :=
  if c = ',' then some .comma
  else if c = '[' then some .openBracket
  else if c = ']' then some .closeBracket
  else if c = Char.ofNat 0x7B then some .openBrace
  else if c = Char.ofNat 0x7D then some .closeBrace
  else none

/-- The tokens of a line, with the word being read so far; `;` starts a comment. -/
def asmTokens : List Char → List Char → Option (List AsmToken)
  | word, [] => wordToken word
  | word, c :: cs =>
    if c = ';' then wordToken word
    else if c = ' ' then do
      let first ← wordToken word
      let rest ← asmTokens [] cs
      return first ++ rest
    else
      match punctToken c with
      | some t => do
        let first ← wordToken word
        let rest ← asmTokens [] cs
        return first ++ t :: rest
      | none => asmTokens (c :: word) cs

/-! ## Operands and lines -/

/-- A segment as written: `W` with a byte list, or `R n`. -/
inductive AsmSeg where
  | write (bs : List Nat)
  | read (n : Nat)
  deriving DecidableEq, Repr

/-- An operand as written, its numbers not yet checked. -/
inductive AsmOperand where
  | num (n : Nat)
  | bytes (bs : List Nat)
  | segs (segs : List AsmSeg)
  deriving DecidableEq, Repr

/-- A command line: mnemonic and operands. -/
structure AsmLine where
  mnemonic : List Char
  operands : List AsmOperand
  deriving DecidableEq, Repr

/-- The numbers of a byte list after its first, up to the closing brace, and what follows it. -/
def bytesTail : List AsmToken → Option (List Nat × List AsmToken)
  | .closeBrace :: rest => some ([], rest)
  | .comma :: .num n :: rest =>
    match bytesTail rest with
    | some (ns, after) => some (n :: ns, after)
    | none => none
  | _ => none

/-- A byte list after its opening brace. -/
def bytesBody : List AsmToken → Option (List Nat × List AsmToken)
  | .closeBrace :: rest => some ([], rest)
  | .num n :: rest =>
    match bytesTail rest with
    | some (ns, after) => some (n :: ns, after)
    | none => none
  | _ => none

/-- One segment and what follows it. -/
def asmSegment : List AsmToken → Option (AsmSeg × List AsmToken)
  | .name ['W'] :: .openBrace :: rest => (bytesBody rest).map fun p => (.write p.1, p.2)
  | .name ['R'] :: .num n :: rest => some (.read n, rest)
  | _ => none

/-- Segments separated by commas up to the closing bracket, and what follows it; `fuel` bounds their number. -/
def segsBody : Nat → List AsmToken → Option (List AsmSeg × List AsmToken)
  | 0, _ => none
  | fuel + 1, toks =>
    match asmSegment toks with
    | none => none
    | some (s, .closeBracket :: after) => some ([s], after)
    | some (s, .comma :: more) =>
      match segsBody fuel more with
      | some (ss, after) => some (s :: ss, after)
      | none => none
    | some _ => none

/-- One operand and what follows it. -/
def asmOperand : List AsmToken → Option (AsmOperand × List AsmToken)
  | .num n :: rest => some (.num n, rest)
  | .openBrace :: rest => (bytesBody rest).map fun p => (.bytes p.1, p.2)
  | .openBracket :: .closeBracket :: rest => some (.segs [], rest)
  | .openBracket :: rest => (segsBody rest.length rest).map fun p => (.segs p.1, p.2)
  | _ => none

/-- Operands separated by commas, up to the end of the line. -/
def asmOperands : Nat → List AsmToken → Option (List AsmOperand)
  | 0, _ => none
  | fuel + 1, toks =>
    match asmOperand toks with
    | none => none
    | some (x, []) => some [x]
    | some (x, .comma :: more) => (asmOperands fuel more).map fun xs => x :: xs
    | some _ => none

/-- The line that a text spells, or none where it spells no line. -/
def parseLine (text : String) : Option AsmLine :=
  match asmTokens [] text.toList with
  | some (.name m :: toks) => (asmOperands toks.length toks).map fun xs => ⟨m, xs⟩
  | _ => none

/-! ## Encoding a line (30_encoding R79) -/

/-- An address, register code or data byte: at most 0xFF. -/
def asmByte (n : Nat) : Option Byte := if n ≤ 0xFF then some (BitVec.ofNat 8 n) else none

/-- A data word: at most 0xFFFF. -/
def asmWord (n : Nat) : Option Word := if n ≤ 0xFFFF then some (BitVec.ofNat 16 n) else none

/-- `q` is 0 or 1. -/
def asmFlag (n : Nat) : Option Bool := if n = 0 then some false else if n = 1 then some true else none

/-- A list of bytes, each at most 0xFF. -/
def asmBytes (ns : List Nat) : Option (List Byte) := ns.mapM asmByte

/-- Block data: at most 32 bytes. -/
def asmBlock (ns : List Nat) : Option (List Byte) := if ns.length ≤ 32 then asmBytes ns else none

/-- A list of segments, the bytes of each at most 0xFF. -/
def asmSegs (segs : List AsmSeg) : Option (List Seg) :=
  segs.mapM fun
    | .write ns => (asmBytes ns).map .write
    | .read n => some (.read n)

/-- The instruction a line denotes (30_encoding R78), or none: "an operand that does not fit its field is an assembly error and
produces no command" (R79), and so is a mnemonic or a list of operands that R78 does not give. -/
def asmInstr (line : AsmLine) : Option Instr :=
  match String.ofList line.mnemonic, line.operands with
  | "QUICK", [.num a, .num q] => do return .quick (← asmByte a) (← asmFlag q)
  | "RECV_BYTE", [.num a] => do return .recvByte (← asmByte a)
  | "SEND_BYTE", [.num a, .num b] => do return .sendByte (← asmByte a) (← asmByte b)
  | "READ_BYTE", [.num a, .num r] => do return .readByte (← asmByte a) (← asmByte r)
  | "READ_WORD", [.num a, .num r] => do return .readWord (← asmByte a) (← asmByte r)
  | "WRITE_BYTE", [.num a, .num r, .num b] => do return .writeByte (← asmByte a) (← asmByte r) (← asmByte b)
  | "WRITE_WORD", [.num a, .num r, .num w] => do return .writeWord (← asmByte a) (← asmByte r) (← asmWord w)
  | "PROC_CALL", [.num a, .num r, .num w] => do return .procCall (← asmByte a) (← asmByte r) (← asmWord w)
  | "BLOCK_READ", [.num a, .num r] => do return .blockRead (← asmByte a) (← asmByte r)
  | "BLOCK_WRITE", [.num a, .num r, .bytes bs] => do return .blockWrite (← asmByte a) (← asmByte r) (← asmBlock bs)
  | "BLOCK_PROC_CALL", [.num a, .num r, .bytes bs] => do return .blockProcCall (← asmByte a) (← asmByte r) (← asmBlock bs)
  | "I2C_READ", [.num a, .num n] => do return .i2cRead (← asmByte a) n
  | "I2C_WRITE", [.num a, .bytes bs] => do return .i2cWrite (← asmByte a) (← asmBytes bs)
  | "I2C_WRITE_READ", [.num a, .bytes bs, .num n] => do return .i2cWriteRead (← asmByte a) (← asmBytes bs) n
  | "I2C_TXN", [.num a, .segs ss] => do return .i2cTxn (← asmByte a) (← asmSegs ss)
  | _, _ => none

/-- The command an assembler presents for a line of text, or none where the line is an error (30_encoding R79). -/
def assemble (text : String) : Option Cmd :=
  match parseLine text with
  | some line => (asmInstr line).map encode
  | none => none

end Sys2Proof
end

