-- ==== Sys2Proof/Machine/Commands.lean ====
section
/-! DEFINITION. The frame, the deframe and the operand check of every command side by side, as functions of the command
(40 R83), the vocabulary in which claims about all commands are made. -/

namespace Sys2Proof.Machine

/-- The one transport request of a command (00_scope R3; 20_memory R51). -/
def frame : Instr → TReq
  | .quick addr flag => frameQuick addr flag
  | .recvByte addr => frameRecvByte addr
  | .sendByte addr byte => frameSendByte addr byte
  | .readByte addr reg => frameReadByte addr reg
  | .readWord addr reg => frameReadWord addr reg
  | .writeByte addr reg byte => frameWriteByte addr reg byte
  | .writeWord addr reg word => frameWriteWord addr reg word
  | .procCall addr reg word => frameProcCall addr reg word
  | .blockRead addr reg => frameBlockRead addr reg
  | .blockWrite addr reg data => frameBlockWrite addr reg data
  | .blockProcCall addr reg data => frameBlockProcCall addr reg data
  | .i2cRead addr n => frameI2cRead addr n
  | .i2cWrite addr bs => frameI2cWrite addr bs
  | .i2cWriteRead addr bs n => frameI2cWriteRead addr bs n
  | .i2cTxn addr segs => frameI2cTxn addr segs

/-- What a command writes from a successful answer (40 R83). -/
def deframe {E : Type} : Instr → ReadData → Option (Result E)
  | .quick _ _ => deframeNone
  | .recvByte _ => deframeByte
  | .sendByte _ _ => deframeNone
  | .readByte _ _ => deframeByte
  | .readWord _ _ => deframeWord
  | .writeByte _ _ _ => deframeNone
  | .writeWord _ _ _ => deframeNone
  | .procCall _ _ _ => deframeWord
  | .blockRead _ _ => deframeBlock
  | .blockWrite _ _ _ => deframeNone
  | .blockProcCall _ _ _ => deframeBlock
  | .i2cRead _ _ => deframePT
  | .i2cWrite _ _ => deframePT
  | .i2cWriteRead _ _ _ => deframePT
  | .i2cTxn _ _ => deframePT

/-- The check a command makes of its operands at Issue (30_encoding R75, `BLOCK_LENGTH` and `PT_SIZE`). -/
def operandCheck (p : Params) : Instr → Option RefuseReason
  | .quick _ _ => none
  | .recvByte _ => none
  | .sendByte _ _ => none
  | .readByte _ _ => none
  | .readWord _ _ => none
  | .writeByte _ _ _ => none
  | .writeWord _ _ _ => none
  | .procCall _ _ _ => none
  | .blockRead _ _ => none
  | .blockWrite _ _ data => blockCheck data
  | .blockProcCall _ _ data => blockCheck data
  | .i2cRead _ n => sizeCheck p (.readPT n)
  | .i2cWrite _ bs => sizeCheck p (.writePT bs)
  | .i2cWriteRead _ bs n => sizeCheck p (.writeReadPT bs n)
  | .i2cTxn _ segs => sizeCheck p (.txnPT segs)

/-- The device address a request carries (20_memory R44). -/
def TReq.addr : TReq → Byte
  | .read a _ => a
  | .write a _ => a
  | .writeRead a _ _ => a
  | .txn a _ => a

/-- The bytes a list of segments writes, in wire order (20_memory R52). -/
def segsWritten : List Seg → List Byte
  | [] => []
  | .write bs :: segs => bs ++ segsWritten segs
  | .read _ :: segs => segsWritten segs

/-- The bytes a request writes, in wire order (20_memory R51, R52). -/
def bytesWritten : TReq → List Byte
  | .read _ _ => []
  | .write _ bs => bs
  | .writeRead _ bs _ => bs
  | .txn _ segs => segsWritten segs

/-- How many bytes a request reads (20_memory R51). -/
def bytesRead (q : TReq) : Nat := (readShape q).sum

/-- The request the latched operands stand for, where they hold a command (40 R83). -/
def Opr.request (o : Opr) : Option TReq := o.command.map frame

end Sys2Proof.Machine
end

