-- ==== Sys2Proof/Machine/Parameters.lean ====
section
/-! DEFINITION. The block with its OPEN parameters as arguments (00_scope R8): one machine for every error type `E`, an arbitrary
type (92 D14), and every `MAX_PT_BYTES` and `MAX_PT_SEGS`. The machine of `exec`, `step` and `core` is the one whose errors are
`TransportError`s (logs 1, 2). -/

namespace Sys2Proof.Machine

/-- The meaning of every command, for the error type `E`: its check, its one request and its deframe (40 R82, R83). -/
def execOf {E : Type} (i : Instr) (s : State E) : Host.Outcome (State E) Fault Refusal :=
  runCommand (operandCheck s.params i) i (frame i) (deframe i) s

/-- One step, for the error type `E` (10_state R36 to R40). -/
def stepOf {E : Type} (s : State E) : Host.Outcome (State E) Fault Refusal :=
  match s.nextMove with
  | .run i => execOf i s
  | .become t => .next t

/-- The block whose transport has errors of type `E` and whose limits are `p`, from its reset state on (00_scope R8). -/
def coreOf (E : Type) (p : Params) : Host.Core where
  State := State E
  Fault := Fault
  Refusal := Refusal
  step := stepOf
  reset := State.resetWith p

end Sys2Proof.Machine
end

