-- ==== Sys2Proof/Safety.lean ====
section
/-! DEFINITION. The terms claims are made in: admission as 30_encoding R75 gives it, the invariants of the block, the end of a run
(70 R144), and what a change of the error values does to a state (60_exceptions R115). -/

namespace Sys2Proof.Machine

/-! ## Admission (30_encoding R75) -/

/-- The descriptor has the shape that 30_encoding R70 names for the opcode. -/
def shapeFitsOp (op : BitVec 4) : Option PTDesc → Bool
  | some (.readPT _) => op == 11
  | some (.writePT _) => op == 12
  | some (.writeReadPT _ _) => op == 13
  | some (.txnPT _) => op == 14
  | none => false

/-- The descriptor exceeds `MAX_PT_BYTES` or `MAX_PT_SEGS`. -/
def exceedsLimits (p : Params) (desc : Option PTDesc) : Bool := !desc.all (PTDesc.fits p)

/-- `admit(c)` of 30_encoding R75, check by check in its order: the first failing check, or none for `ok`. -/
def admission (p : Params) (c : Cmd) : Option RefuseReason :=
  if opField c.cw = 0xF then some .reservedOpcode
  else if reservedLow c.cw ≠ 0 ∨ reservedHigh c.cw ≠ 0 then some .reservedBits
  else if unusedFieldSet c.cw then some .unusedField
  else if isBlockWriteOp (opField c.cw) ∧ 32 < (lenField c.cw).toNat then some .blockLength
  else if isPassthroughOp (opField c.cw) ∧ shapeFitsOp (opField c.cw) c.ptd = false then some .ptShape
  else if isPassthroughOp (opField c.cw) ∧ exceedsLimits p c.ptd then some .ptSize
  else none

/-- Two commands that differ only in inputs 30_encoding R72 says are ignored: the same word; the same first `LEN` cells of `WB`
for a block write; the same descriptor for a passthrough command. -/
def SameUsedInputs (c c' : Cmd) : Prop :=
  c.cw = c'.cw ∧
  (isBlockWriteOp (opField c.cw) = true → blockData c = blockData c') ∧
  (isPassthroughOp (opField c.cw) = true → c.ptd = c'.ptd)

/-! ## What a command does (40 R82) -/

/-- Only the fields a row of 30_encoding R70 marks `U` are used: the reserved bits and every field marked `Z` are zero. -/
def UsesOnly (u : FieldUse) (cw : CmdWord) : Prop :=
  reservedLow cw = 0 ∧ reservedHigh cw = 0 ∧
  (u.q = false → qField cw = 0) ∧ (u.len = false → lenField cw = 0) ∧ (u.reg = false → regField cw = 0) ∧
  (u.d0 = false → d0Field cw = 0) ∧ (u.d1 = false → d1Field cw = 0)

/-- No fault and no refusal is recorded. -/
def State.Unmarked (s : State) : Prop := s.fault = none ∧ s.refused = none

/-- The state after the Issue of command `i` with request `q`: everything else is as it was (10_state R36). What the withdraw
indication of the transport port shows from then on, `withdrawn`, is left to the caller of this definition (log 12). -/
def State.issued (s : State) (i : Instr) (q : TReq) (withdrawn : Option TReq) : State :=
  { s with
    opr := latch (encode i)
    treq := some q
    stage := Cells.bottom
    rsp := Rsp.bottom
    fsm := .busy
    cmdPort := none
    withdraw := withdrawn
    treqLog := s.treqLog ++ [.request q] }

/-- In IDLE, with no mark, command `i` is issued with the one request `q` where its operands are within limits. What the withdraw
indication then shows is left open (log 12). -/
def IssuesWithin (within : Params → Prop) (i : Instr) (q : TReq) : Prop :=
  ∀ s : State, s.fsm = .idle → s.Unmarked → within s.params →
    ∃ withdrawn, exec i s = .next (s.issued i q withdrawn)

/-- In IDLE, with no mark, command `i` is issued with the one request `q`. -/
def Issues (i : Instr) (q : TReq) : Prop := IssuesWithin (fun _ => True) i q

/-- In IDLE, with no mark, command `i` is refused with reason `F` beyond its limits: nothing is latched, no request is issued. What
the command port then holds is left open (log 20). -/
def RefusesBeyond (within : Params → Prop) (F : RefuseReason) (i : Instr) : Prop :=
  ∀ s : State, s.fsm = .idle → s.Unmarked → ¬within s.params →
    ∃ port, exec i s = .next { s with refused := some F, cmdPort := port }

/-- The Transport's answer `r` to the outstanding request `q` stands next, in BUSY and with no mark. -/
def State.Answered (s : State) (q : TReq) (r : TRsp) (rest : List Input) : Prop :=
  s.fsm = .busy ∧ s.Unmarked ∧ s.treq = some q ∧ s.inputs = .respond r :: rest

/-- A successful answer `d` ends command `i` with the response `rsp`; `STAGE` and everything else is as it was (40 R86). -/
def AnswersWith (i : Instr) (q : TReq) (d : ReadData) (rsp : Rsp) : Prop :=
  ∀ (s : State) (rest : List Input), s.Answered q (.ok d) rest →
    exec i s = .next { s with inputs := rest, rsp := rsp, treq := none, fsm := .done }

/-- A successful answer `d` ends block read `i` with the response `rsp` and fills `STAGE` (41 R99). -/
def AnswersStaged (i : Instr) (q : TReq) (d : ReadData) (rsp : Rsp) (stage : Cells) : Prop :=
  ∀ (s : State) (rest : List Input), s.Answered q (.ok d) rest →
    exec i s = .next { s with inputs := rest, rsp := rsp, stage := stage, treq := none, fsm := .done }

/-- The exceptions of 40 R85 at Respond: an error ends the command with the error unchanged and no result field (60 R114, R117), a
successful answer of the wrong shape is the fault `BAD_TRANSPORT_RESPONSE` (20 R57), and nothing else changes; whether that answer
still stands among the inputs to come is left open (log 8). -/
def TakesExceptions (i : Instr) (q : TReq) : Prop :=
  (∀ (s : State) (rest : List Input) (e : TransportError), s.Answered q (.err e) rest →
    exec i s = .next { s with
      inputs := rest, rsp := { (Rsp.bottom : Rsp) with rstat := some 1, rerr := some e }, treq := none, fsm := .done }) ∧
  (∀ (s : State) (rest : List Input) (d : ReadData), s.Answered q (.ok d) rest → shapeOK q d = false →
    ∃ left, exec i s = .next { s with inputs := left, fault := some .badTransportResponse })

/-- `{RSTAT = 0, RKIND = NONE}`, every other field `⊥`. -/
def rspNone : Rsp := { Rsp.bottom with rstat := some 0, rkind := some .none }

/-- `{RSTAT = 0, RKIND = BYTE, RBYTE = b}`, every other field `⊥`. -/
def rspByte (b : Byte) : Rsp := { Rsp.bottom with rstat := some 0, rkind := some .byte, rbyte := some b }

/-- `{RSTAT = 0, RKIND = WORD, RWORD = w}`, every other field `⊥`. -/
def rspWord (w : Word) : Rsp := { Rsp.bottom with rstat := some 0, rkind := some .word, rword := some w }

/-- `{RSTAT = 0, RKIND = PT, RPT = d}`, every other field `⊥`. -/
def rspPT (d : ReadData) : Rsp := { Rsp.bottom with rstat := some 0, rkind := some .pt, rpt := some d }

/-- `{RSTAT = 0, RKIND = BLOCK, RLEN = n, RBUF = take(n, bytes)}`, every other field and cell `⊥`, where `n = min(N + 1, 32)` for
the length prefix `N` (41 R100). -/
def rspBlock (prefixByte : Byte) (bytes : List Byte) : Rsp :=
  { Rsp.bottom with
    rstat := some 0
    rkind := some .block
    rlen := some (BitVec.ofNat 6 (min (prefixByte.toNat + 1) 32))
    rbuf := Vector.ofFn fun i : Fin 32 => (bytes.take (min (prefixByte.toNat + 1) 32))[i.val]? }

/-! ## The shape of a response record (10_state R31) -/

/-- Each field of the response record holds a value exactly when the table of 10_state R31 says so. -/
structure Rsp.Shaped {E : Type} (r : Rsp E) : Prop where
  stat : r.rstat.isSome
  err : r.rerr.isSome ↔ r.rstat = some statErr
  kind : r.rkind.isSome ↔ r.rstat = some statOK
  byte : r.rbyte.isSome ↔ r.rkind = some .byte
  word : r.rword.isSome ↔ r.rkind = some .word
  len : r.rlen.isSome ↔ r.rkind = some .block
  pt : r.rpt.isSome ↔ r.rkind = some .pt
  lenRange : ∀ n, r.rlen = some n → 1 ≤ n.toNat ∧ n.toNat ≤ 32
  buf : ∀ i : Fin 32, (r.rbuf[i.val]).isSome ↔ ∃ n, r.rlen = some n ∧ i.val < n.toNat

/-! ## The invariants -/

/-- What holds in every state a run reaches: which registers hold `⊥` in which controller state (10_state R25 to R34). -/
structure State.Inv (s : State) : Prop where
  /-- "It is some request exactly when `FSM` = BUSY" (R30). -/
  requestIffBusy : s.treq.isSome ↔ s.fsm = .busy
  /-- "nothing survives past the call that is not returned to the caller" (R27, R38, R43). -/
  idleClear : s.fsm = .idle → s.opr = Opr.bottom ∧ s.stage = Cells.bottom ∧ s.rsp = Rsp.bottom
  /-- From acceptance to the end of the command the operands of an admitted command are latched, and its own request is the one
  outstanding (R26, R27, R36). -/
  latched : s.fsm ≠ .idle → ∃ i : Instr, i.wf s.params = true ∧ s.opr = latch (encode i) ∧
    (s.fsm = .busy → s.treq = some (frame i))
  /-- Nothing is staged or answered before the Transport answers (R33, R36). -/
  busyClear : s.fsm = .busy → s.stage = Cells.bottom ∧ s.rsp = Rsp.bottom
  /-- In DONE the response record has the shape of its kind (R31). -/
  doneShaped : s.fsm = .done → s.rsp.Shaped
  /-- The staging buffer is filled whole or not at all (R33; 41 R99). -/
  stageWhole : s.stage = Cells.bottom ∨ ∀ i : Fin 32, (s.stage[i.val]).isSome
  /-- A refusal leaves `FSM` IDLE (60 R121). -/
  refusedIdle : s.refused.isSome → s.fsm = .idle
  /-- A fault and a refusal are never both recorded: the first disables the step that would record the second (R34). -/
  oneMark : ¬(s.fault.isSome ∧ s.refused.isSome)
  /-- "Both are positive naturals" (92 D13). -/
  positive : s.params.Positive
  /-- Every response the Caller received had the shape of its kind (R31, R38). -/
  obsShaped : ∀ e ∈ s.obs, ∀ r, e.ending = .response r → r.Shaped

/-- The requests of a transport-port log, in order. -/
def requestsIssued : List PortEvent → List TReq
  | [] => []
  | .request q :: log => q :: requestsIssued log
  | .withdrawn _ :: log => requestsIssued log

/-- The requests that were withdrawn, in order. -/
def requestsWithdrawn : List PortEvent → List TReq
  | [] => []
  | .request _ :: log => requestsWithdrawn log
  | .withdrawn q :: log => q :: requestsWithdrawn log

/-- The commands of a run so far, in order: those that have ended, then the one in progress. -/
def State.commandsAccepted (s : State) : List Opr :=
  s.obs.map ObsEntry.cmd ++ match s.fsm with
    | .idle => []
    | .busy => [s.opr]
    | .done => [s.opr]

/-- The commands that ended cancelled, in order. -/
def State.commandsCancelled (s : State) : List Opr :=
  (s.obs.filter fun e => e.ending == .cancelled).map ObsEntry.cmd

/-- Every command has issued exactly one request, its own, in the order of the commands (20_memory R58, R61), and exactly the
cancelled commands' requests were withdrawn (10_state R39). -/
structure State.LogInv (s : State) : Prop where
  issued : (requestsIssued s.treqLog).map some = s.commandsAccepted.map Opr.request
  withdrawn : (requestsWithdrawn s.treqLog).map some = s.commandsCancelled.map Opr.request

/-! ## The end of a run (70 R144) -/

/-- The Caller presents no further command in this run: none stands among the inputs before a Reset, which begins a new run
(70 R130). -/
def presentsNone : List Input → Bool
  | [] => true
  | .reset :: _ => true
  | .present _ :: _ => false
  | .respond _ :: inputs => presentsNone inputs
  | .ack :: inputs => presentsNone inputs
  | .cancel :: inputs => presentsNone inputs
  | .read _ :: inputs => presentsNone inputs

/-- The run has ended well: IDLE, no fault, no refusal, and the Caller presents no further command, neither on the port nor among
its acts still to come in this run. -/
def State.EndedWell (s : State) : Prop :=
  s.fsm = .idle ∧ s.Unmarked ∧ s.cmdPort = none ∧ presentsNone s.inputs = true

/-- The result of a run: its observation, the commands accepted with their endings and the requests issued (00_scope R11). -/
def State.result (s : State) : List ObsEntry × List TReq := (s.obs, requestsIssued s.treqLog)

/-! ## Error values (60_exceptions R115), of one error type mapped to another (00_scope R8) -/

section ErrorValues
variable {E E' : Type}

/-- The answer with its error value replaced. -/
def TRsp.mapError (f : E → E') : TRsp E → TRsp E'
  | .ok d => .ok d
  | .err e => .err (f e)

/-- The response record with its error value replaced. -/
def Rsp.mapError (f : E → E') (r : Rsp E) : Rsp E' := { r with rerr := r.rerr.map f }

/-- A value read with an error value replaced. -/
def RspValue.mapError (f : E → E') : RspValue E → RspValue E'
  | .stat v => .stat v
  | .err e => .err (f e)
  | .kind k => .kind k
  | .byte b => .byte b
  | .word w => .word w
  | .len n => .len n
  | .pt d => .pt d

/-- An input with its error value replaced. -/
def Input.mapError (f : E → E') : Input E → Input E'
  | .present c => .present c
  | .respond r => .respond (TRsp.mapError f r)
  | .ack => .ack
  | .cancel => .cancel
  | .read fld => .read fld
  | .reset => .reset

/-- An ending with its error value replaced. -/
def CmdEnd.mapError (f : E → E') : CmdEnd E → CmdEnd E'
  | .response r => .response (r.mapError f)
  | .cancelled => .cancelled

/-- An entry of the observation with its error value replaced. -/
def ObsEntry.mapError (f : E → E') (e : ObsEntry E) : ObsEntry E' :=
  { e with ending := e.ending.mapError f }

/-- The state with every error value replaced. -/
def State.mapError (f : E → E') (s : State E) : State E' :=
  { s with
    rsp := s.rsp.mapError f
    obs := s.obs.map (ObsEntry.mapError f)
    callerReads := s.callerReads.map (RspValue.mapError f)
    inputs := s.inputs.map (Input.mapError f) }

/-- The outcome of a step with every error value of the next state replaced. -/
def mapErrorOutcome (f : E → E') :
    Host.Outcome (State E) Fault Refusal → Host.Outcome (State E') Fault Refusal
  | .next t => .next (t.mapError f)
  | .fault r => .fault r
  | .refused r => .refused r

end ErrorValues

end Sys2Proof.Machine
end

