-- ==== Sys2Proof/Certificates/Slice0/Obligations.lean ====
section
/-! DEFINITION. The statements about the model, from the numbered rules of the spec. -/

open Sys2Proof Sys2Proof.Machine

/-! ## Encoding -/

/-- The worked encodings of 30_encoding R81: each word decodes to its line's command, and the command encodes to the word. -/
def Obligations.WorkedWordsDecode : Prop :=
  decode ⟨0x00000000B010, Vector.replicate 32 0, none⟩ = .ok (.quick 0x0B true) ∧
  decode ⟨0x000000548004, Vector.replicate 32 0, none⟩ = .ok (.readWord 0x48 0x05) ∧
  decode ⟨0x0BEEF1048006, Vector.replicate 32 0, none⟩ = .ok (.writeWord 0x48 0x10 0xBEEF) ∧
  decode ⟨0x000002050069, writeBufOf [0x01, 0x02, 0x03], none⟩ = .ok (.blockWrite 0x50 0x20 [0x01, 0x02, 0x03]) ∧
  (encode (.quick 0x0B true)).cw = 0x00000000B010 ∧
  (encode (.readWord 0x48 0x05)).cw = 0x000000548004 ∧
  (encode (.writeWord 0x48 0x10 0xBEEF)).cw = 0x0BEEF1048006 ∧
  (encode (.blockWrite 0x50 0x20 [0x01, 0x02, 0x03])).cw = 0x000002050069

/-- Every command that can be encoded decodes to itself, with every operand at every value (30_encoding R67 to R73, R79). -/
def Obligations.EncodedCommandDecodesToItself : Prop :=
  ∀ i : Instr, i.encodable = true → decode (encode i) = .ok i

/-- The other direction: a presented word that decodes is the word of the command it denotes, and what the block latches for the
command is what it would latch of the presented command itself (10_state R27 to R29, R36). -/
def Obligations.DecodedCommandKeepsItsWord : Prop :=
  ∀ (c : Cmd) (i : Instr), decode c = .ok i →
    (encode i).cw = c.cw ∧ latch (encode i) = latch c ∧ i.encodable = true

/-- 30_encoding R76. Rows of the opcode table never overlap; a word that matches none is refused by one of the three checks of
the word's form; a word that matches a row names the row's command, but for a block write with `LEN` > 32, which `BLOCK_LENGTH`
refuses, and for a passthrough command whose descriptor has not its shape. -/
def Obligations.OpcodeTableDecodesEveryWord : Prop :=
  ∀ cw : CmdWord,
    (∀ r ∈ opcodeTable, ∀ r' ∈ opcodeTable, r.matches cw = true → r'.matches cw = true → r = r') ∧
    ((∀ r ∈ opcodeTable, r.matches cw = false) → ∀ wb ptd,
      decode ⟨cw, wb, ptd⟩ = .error .reservedOpcode ∨ decode ⟨cw, wb, ptd⟩ = .error .reservedBits ∨
        decode ⟨cw, wb, ptd⟩ = .error .unusedField) ∧
    (∀ r ∈ opcodeTable, r.matches cw = true → ∀ wb ptd,
      ((r.mnemonic = "BLOCK_WRITE" ∨ r.mnemonic = "BLOCK_PROC_CALL") ∧ 32 < (lenField cw).toNat ∧
        decode ⟨cw, wb, ptd⟩ = .error .blockLength) ∨
      (shapeFitsOp (opField cw) ptd = false ∧ isPassthroughOp (opField cw) = true ∧
        decode ⟨cw, wb, ptd⟩ = .error .ptShape) ∨
      (¬((r.mnemonic = "BLOCK_WRITE" ∨ r.mnemonic = "BLOCK_PROC_CALL") ∧ 32 < (lenField cw).toNat) ∧
        ∃ i, decode ⟨cw, wb, ptd⟩ = .ok i ∧ i.mnemonic = r.mnemonic))

/-- 30_encoding R78, R79, on a line already read. Each of the fifteen lines of R78, with operands that fit, denotes its own command
with exactly those operands; a line that an assembler accepts is a command that can be encoded, so that the block reads back the
line's own command; and an operand that does not fit its field, in whichever line and place, produces no command. -/
def Obligations.AssembledLineDecodesToItsCommand : Prop :=
  (∀ (line : AsmLine) (i : Instr), asmInstr line = some i → i.encodable = true ∧ decode (encode i) = .ok i) ∧
  (∀ (addr : Byte) (flag : Bool),
    asmInstr ⟨"QUICK".toList, [.num addr.toNat, .num flag.toNat]⟩ = some (.quick addr flag)) ∧
  (∀ addr : Byte, asmInstr ⟨"RECV_BYTE".toList, [.num addr.toNat]⟩ = some (.recvByte addr)) ∧
  (∀ addr byte : Byte,
    asmInstr ⟨"SEND_BYTE".toList, [.num addr.toNat, .num byte.toNat]⟩ = some (.sendByte addr byte)) ∧
  (∀ addr reg : Byte,
    asmInstr ⟨"READ_BYTE".toList, [.num addr.toNat, .num reg.toNat]⟩ = some (.readByte addr reg) ∧
    asmInstr ⟨"READ_WORD".toList, [.num addr.toNat, .num reg.toNat]⟩ = some (.readWord addr reg) ∧
    asmInstr ⟨"BLOCK_READ".toList, [.num addr.toNat, .num reg.toNat]⟩ = some (.blockRead addr reg)) ∧
  (∀ addr reg byte : Byte,
    asmInstr ⟨"WRITE_BYTE".toList, [.num addr.toNat, .num reg.toNat, .num byte.toNat]⟩ = some (.writeByte addr reg byte)) ∧
  (∀ (addr reg : Byte) (word : Word),
    asmInstr ⟨"WRITE_WORD".toList, [.num addr.toNat, .num reg.toNat, .num word.toNat]⟩ = some (.writeWord addr reg word) ∧
    asmInstr ⟨"PROC_CALL".toList, [.num addr.toNat, .num reg.toNat, .num word.toNat]⟩ = some (.procCall addr reg word)) ∧
  (∀ (addr reg : Byte) (data : List Byte), data.length ≤ 32 →
    asmInstr ⟨"BLOCK_WRITE".toList, [.num addr.toNat, .num reg.toNat, .bytes (data.map BitVec.toNat)]⟩ =
      some (.blockWrite addr reg data) ∧
    asmInstr ⟨"BLOCK_PROC_CALL".toList, [.num addr.toNat, .num reg.toNat, .bytes (data.map BitVec.toNat)]⟩ =
      some (.blockProcCall addr reg data)) ∧
  (∀ (addr : Byte) (n : Nat), asmInstr ⟨"I2C_READ".toList, [.num addr.toNat, .num n]⟩ = some (.i2cRead addr n)) ∧
  (∀ (addr : Byte) (bs : List Byte),
    asmInstr ⟨"I2C_WRITE".toList, [.num addr.toNat, .bytes (bs.map BitVec.toNat)]⟩ = some (.i2cWrite addr bs)) ∧
  (∀ (addr : Byte) (bs : List Byte) (n : Nat),
    asmInstr ⟨"I2C_WRITE_READ".toList, [.num addr.toNat, .bytes (bs.map BitVec.toNat), .num n]⟩ =
      some (.i2cWriteRead addr bs n)) ∧
  (∀ (addr : Byte) (segs : List Seg),
    asmInstr ⟨"I2C_TXN".toList, [.num addr.toNat, .segs (segs.map fun
      | .write bs => .write (bs.map BitVec.toNat)
      | .read n => .read n)]⟩ = some (.i2cTxn addr segs)) ∧
  -- An address, a register code, a data byte, an element of a byte list or of a `W` segment above 0xFF.
  (∀ (m : List Char) (a : Nat) (rest : List AsmOperand), 0xFF < a → asmInstr ⟨m, .num a :: rest⟩ = none) ∧
  (∀ m ∈ ["SEND_BYTE", "READ_BYTE", "READ_WORD", "WRITE_BYTE", "WRITE_WORD", "PROC_CALL", "BLOCK_READ", "BLOCK_WRITE",
      "BLOCK_PROC_CALL"], ∀ (a b : Nat) (rest : List AsmOperand), 0xFF < b →
    asmInstr ⟨m.toList, .num a :: .num b :: rest⟩ = none) ∧
  (∀ a r b, 0xFF < b → asmInstr ⟨"WRITE_BYTE".toList, [.num a, .num r, .num b]⟩ = none) ∧
  (∀ (a r n b : Nat) (bs : List Nat), b ∈ bs → 0xFF < b →
    asmInstr ⟨"BLOCK_WRITE".toList, [.num a, .num r, .bytes bs]⟩ = none ∧
    asmInstr ⟨"BLOCK_PROC_CALL".toList, [.num a, .num r, .bytes bs]⟩ = none ∧
    asmInstr ⟨"I2C_WRITE".toList, [.num a, .bytes bs]⟩ = none ∧
    asmInstr ⟨"I2C_WRITE_READ".toList, [.num a, .bytes bs, .num n]⟩ = none) ∧
  (∀ (a b : Nat) (bs : List Nat) (segs : List AsmSeg), AsmSeg.write bs ∈ segs → b ∈ bs → 0xFF < b →
    asmInstr ⟨"I2C_TXN".toList, [.num a, .segs segs]⟩ = none) ∧
  -- A word above 0xFFFF, `q` other than 0 or 1, more than 32 block bytes.
  (∀ a r w, 0xFFFF < w → asmInstr ⟨"WRITE_WORD".toList, [.num a, .num r, .num w]⟩ = none ∧
    asmInstr ⟨"PROC_CALL".toList, [.num a, .num r, .num w]⟩ = none) ∧
  (∀ a q, 1 < q → asmInstr ⟨"QUICK".toList, [.num a, .num q]⟩ = none) ∧
  (∀ a r bs, 32 < bs.length → asmInstr ⟨"BLOCK_WRITE".toList, [.num a, .num r, .bytes bs]⟩ = none ∧
    asmInstr ⟨"BLOCK_PROC_CALL".toList, [.num a, .num r, .bytes bs]⟩ = none)

/-- The lines of 30_encoding R81 assemble to their words. The braces of the last line are the characters 0x7B and 0x7D. -/
def Obligations.WorkedLinesAssemble : Prop :=
  (assemble "QUICK 0x0B, 1").map Cmd.cw = some 0x00000000B010 ∧
  (assemble "READ_WORD 0x48, 0x05").map Cmd.cw = some 0x000000548004 ∧
  (assemble "WRITE_WORD 0x48, 0x10, 0xBEEF").map Cmd.cw = some 0x0BEEF1048006 ∧
  assemble ("BLOCK_WRITE 0x50, 0x20, " ++ String.ofList [Char.ofNat 0x7B] ++ "0x01, 0x02, 0x03" ++
    String.ofList [Char.ofNat 0x7D]) = some ⟨0x000002050069, writeBufOf [0x01, 0x02, 0x03], none⟩

/-! ## The commands, one by one: encoding, the one request, what each answer writes, and the exceptions -/

/-- QUICK (40 R89). -/
def Obligations.QuickCommand : Prop :=
  ∀ (addr : Byte) (flag : Bool),
    (∀ c, decode c = .ok (.quick addr flag) ↔
      opField c.cw = 0x0 ∧ UsesOnly ⟨true, false, false, false, false⟩ c.cw ∧ addrField c.cw = addr ∧
        (qField c.cw = 1 ↔ flag = true)) ∧
    Issues (.quick addr true) (.read addr 0) ∧
    Issues (.quick addr false) (.write addr []) ∧
    (∀ d, shapeOK (.read addr 0) d = true ↔ d = [[]]) ∧
    (∀ d, shapeOK (.write addr []) d = true ↔ d = []) ∧
    AnswersWith (.quick addr true) (.read addr 0) [[]] rspNone ∧
    AnswersWith (.quick addr false) (.write addr []) [] rspNone ∧
    TakesExceptions (.quick addr true) (.read addr 0) ∧
    TakesExceptions (.quick addr false) (.write addr [])

/-- RECV_BYTE (40 R90). -/
def Obligations.ReceiveByteCommand : Prop :=
  ∀ addr : Byte,
    (∀ c, decode c = .ok (.recvByte addr) ↔
      opField c.cw = 0x1 ∧ UsesOnly ⟨false, false, false, false, false⟩ c.cw ∧ addrField c.cw = addr) ∧
    Issues (.recvByte addr) (.read addr 1) ∧
    (∀ d, shapeOK (.read addr 1) d = true ↔ ∃ b, d = [[b]]) ∧
    (∀ b, AnswersWith (.recvByte addr) (.read addr 1) [[b]] (rspByte b)) ∧
    TakesExceptions (.recvByte addr) (.read addr 1)

/-- SEND_BYTE (40 R91). -/
def Obligations.SendByteCommand : Prop :=
  ∀ addr byte : Byte,
    (∀ c, decode c = .ok (.sendByte addr byte) ↔
      opField c.cw = 0x2 ∧ UsesOnly ⟨false, false, false, true, false⟩ c.cw ∧ addrField c.cw = addr ∧
        d0Field c.cw = byte) ∧
    Issues (.sendByte addr byte) (.write addr [byte]) ∧
    (∀ d, shapeOK (.write addr [byte]) d = true ↔ d = []) ∧
    AnswersWith (.sendByte addr byte) (.write addr [byte]) [] rspNone ∧
    TakesExceptions (.sendByte addr byte) (.write addr [byte])

/-- READ_BYTE (40 R92). -/
def Obligations.ReadByteCommand : Prop :=
  ∀ addr reg : Byte,
    (∀ c, decode c = .ok (.readByte addr reg) ↔
      opField c.cw = 0x3 ∧ UsesOnly ⟨false, false, true, false, false⟩ c.cw ∧ addrField c.cw = addr ∧
        regField c.cw = reg) ∧
    Issues (.readByte addr reg) (.writeRead addr [reg] 1) ∧
    (∀ d, shapeOK (.writeRead addr [reg] 1) d = true ↔ ∃ b, d = [[b]]) ∧
    (∀ b, AnswersWith (.readByte addr reg) (.writeRead addr [reg] 1) [[b]] (rspByte b)) ∧
    TakesExceptions (.readByte addr reg) (.writeRead addr [reg] 1)

/-- READ_WORD (40 R93). The word result is given by its value: the first byte received is the low one. -/
def Obligations.ReadWordCommand : Prop :=
  ∀ addr reg : Byte,
    (∀ c, decode c = .ok (.readWord addr reg) ↔
      opField c.cw = 0x4 ∧ UsesOnly ⟨false, false, true, false, false⟩ c.cw ∧ addrField c.cw = addr ∧
        regField c.cw = reg) ∧
    Issues (.readWord addr reg) (.writeRead addr [reg] 2) ∧
    (∀ d, shapeOK (.writeRead addr [reg] 2) d = true ↔ ∃ b0 b1, d = [[b0, b1]]) ∧
    (∀ b0 b1 : Byte, AnswersWith (.readWord addr reg) (.writeRead addr [reg] 2) [[b0, b1]]
      (rspWord (BitVec.ofNat 16 (256 * b1.toNat + b0.toNat)))) ∧
    TakesExceptions (.readWord addr reg) (.writeRead addr [reg] 2)

/-- WRITE_BYTE (40 R94). -/
def Obligations.WriteByteCommand : Prop :=
  ∀ addr reg byte : Byte,
    (∀ c, decode c = .ok (.writeByte addr reg byte) ↔
      opField c.cw = 0x5 ∧ UsesOnly ⟨false, false, true, true, false⟩ c.cw ∧ addrField c.cw = addr ∧
        regField c.cw = reg ∧ d0Field c.cw = byte) ∧
    Issues (.writeByte addr reg byte) (.write addr [reg, byte]) ∧
    (∀ d, shapeOK (.write addr [reg, byte]) d = true ↔ d = []) ∧
    AnswersWith (.writeByte addr reg byte) (.write addr [reg, byte]) [] rspNone ∧
    TakesExceptions (.writeByte addr reg byte) (.write addr [reg, byte])

/-- WRITE_WORD (40 R95). The two bytes written are given by their values, the low one first. -/
def Obligations.WriteWordCommand : Prop :=
  ∀ (addr reg lo hi : Byte) (word : Word), word.toNat = 256 * hi.toNat + lo.toNat →
    (∀ c, decode c = .ok (.writeWord addr reg word) ↔
      opField c.cw = 0x6 ∧ UsesOnly ⟨false, false, true, true, true⟩ c.cw ∧ addrField c.cw = addr ∧
        regField c.cw = reg ∧ d0Field c.cw = lo ∧ d1Field c.cw = hi) ∧
    Issues (.writeWord addr reg word) (.write addr [reg, lo, hi]) ∧
    (∀ d, shapeOK (.write addr [reg, lo, hi]) d = true ↔ d = []) ∧
    AnswersWith (.writeWord addr reg word) (.write addr [reg, lo, hi]) [] rspNone ∧
    TakesExceptions (.writeWord addr reg word) (.write addr [reg, lo, hi])

/-- PROC_CALL (40 R96): one transaction of two segments. -/
def Obligations.ProcessCallCommand : Prop :=
  ∀ (addr reg lo hi : Byte) (word : Word), word.toNat = 256 * hi.toNat + lo.toNat →
    (∀ c, decode c = .ok (.procCall addr reg word) ↔
      opField c.cw = 0x7 ∧ UsesOnly ⟨false, false, true, true, true⟩ c.cw ∧ addrField c.cw = addr ∧
        regField c.cw = reg ∧ d0Field c.cw = lo ∧ d1Field c.cw = hi) ∧
    Issues (.procCall addr reg word) (.txn addr [.write [reg, lo, hi], .read 2]) ∧
    (∀ d, shapeOK (.txn addr [.write [reg, lo, hi], .read 2]) d = true ↔ ∃ b0 b1, d = [[b0, b1]]) ∧
    (∀ b0 b1 : Byte, AnswersWith (.procCall addr reg word) (.txn addr [.write [reg, lo, hi], .read 2]) [[b0, b1]]
      (rspWord (BitVec.ofNat 16 (256 * b1.toNat + b0.toNat)))) ∧
    TakesExceptions (.procCall addr reg word) (.txn addr [.write [reg, lo, hi], .read 2])

/-- BLOCK_READ (41 R102): always 32 bytes are read; the prefix `N` is kept and the length clamped. -/
def Obligations.BlockReadCommand : Prop :=
  ∀ addr reg : Byte,
    (∀ c, decode c = .ok (.blockRead addr reg) ↔
      opField c.cw = 0x8 ∧ UsesOnly ⟨false, false, true, false, false⟩ c.cw ∧ addrField c.cw = addr ∧
        regField c.cw = reg) ∧
    Issues (.blockRead addr reg) (.writeRead addr [reg] 32) ∧
    (∀ d, shapeOK (.writeRead addr [reg] 32) d = true ↔ ∃ n rest, rest.length = 31 ∧ d = [n :: rest]) ∧
    (∀ (n : Byte) (rest : List Byte), rest.length = 31 →
      AnswersStaged (.blockRead addr reg) (.writeRead addr [reg] 32) [n :: rest] (rspBlock n (n :: rest))
        (Vector.ofFn fun i : Fin 32 => (n :: rest)[i.val]?)) ∧
    TakesExceptions (.blockRead addr reg) (.writeRead addr [reg] 32)

/-- BLOCK_WRITE (41 R103): two write segments, the second the data, for every length 0 to 32; a longer block is refused. -/
def Obligations.BlockWriteCommand : Prop :=
  ∀ (addr reg : Byte) (data : List Byte),
    (∀ c, decode c = .ok (.blockWrite addr reg data) ↔
      opField c.cw = 0x9 ∧ UsesOnly ⟨false, true, true, false, false⟩ c.cw ∧ addrField c.cw = addr ∧
        regField c.cw = reg ∧ (lenField c.cw).toNat ≤ 32 ∧ c.wb.toList.take (lenField c.cw).toNat = data) ∧
    (∀ c, opField c.cw = 0x9 → UsesOnly ⟨false, true, true, false, false⟩ c.cw → 32 < (lenField c.cw).toNat →
      decode c = .error .blockLength) ∧
    IssuesWithin (fun _ => data.length ≤ 32) (.blockWrite addr reg data)
      (.txn addr [.write [reg, BitVec.ofNat 8 data.length], .write data]) ∧
    RefusesBeyond (fun _ => data.length ≤ 32) .blockLength (.blockWrite addr reg data) ∧
    (∀ d, shapeOK (.txn addr [.write [reg, BitVec.ofNat 8 data.length], .write data]) d = true ↔ d = []) ∧
    AnswersWith (.blockWrite addr reg data) (.txn addr [.write [reg, BitVec.ofNat 8 data.length], .write data]) [] rspNone ∧
    TakesExceptions (.blockWrite addr reg data) (.txn addr [.write [reg, BitVec.ofNat 8 data.length], .write data])

/-- BLOCK_PROC_CALL (41 R104): three segments in one transaction; the answer is decoded as a block read's. -/
def Obligations.BlockProcessCallCommand : Prop :=
  ∀ (addr reg : Byte) (data : List Byte) (q : TReq),
    q = .txn addr [.write [reg, BitVec.ofNat 8 data.length], .write data, .read 32] →
    (∀ c, decode c = .ok (.blockProcCall addr reg data) ↔
      opField c.cw = 0xA ∧ UsesOnly ⟨false, true, true, false, false⟩ c.cw ∧ addrField c.cw = addr ∧
        regField c.cw = reg ∧ (lenField c.cw).toNat ≤ 32 ∧ c.wb.toList.take (lenField c.cw).toNat = data) ∧
    (∀ c, opField c.cw = 0xA → UsesOnly ⟨false, true, true, false, false⟩ c.cw → 32 < (lenField c.cw).toNat →
      decode c = .error .blockLength) ∧
    IssuesWithin (fun _ => data.length ≤ 32) (.blockProcCall addr reg data) q ∧
    RefusesBeyond (fun _ => data.length ≤ 32) .blockLength (.blockProcCall addr reg data) ∧
    (∀ d, shapeOK q d = true ↔ ∃ n rest, rest.length = 31 ∧ d = [n :: rest]) ∧
    (∀ (n : Byte) (rest : List Byte), rest.length = 31 →
      AnswersStaged (.blockProcCall addr reg data) q [n :: rest] (rspBlock n (n :: rest))
        (Vector.ofFn fun i : Fin 32 => (n :: rest)[i.val]?)) ∧
    TakesExceptions (.blockProcCall addr reg data) q

/-- I2C_READ (42 R108). -/
def Obligations.PassthroughRead : Prop :=
  ∀ (addr : Byte) (n : Nat),
    (∀ c, decode c = .ok (.i2cRead addr n) ↔
      opField c.cw = 0xB ∧ UsesOnly ⟨false, false, false, false, false⟩ c.cw ∧ addrField c.cw = addr ∧
        c.ptd = some (.readPT n)) ∧
    (∀ c, opField c.cw = 0xB → UsesOnly ⟨false, false, false, false, false⟩ c.cw → (∀ m, c.ptd ≠ some (.readPT m)) →
      decode c = .error .ptShape) ∧
    IssuesWithin (fun p => n ≤ p.maxPtBytes) (.i2cRead addr n) (.read addr n) ∧
    RefusesBeyond (fun p => n ≤ p.maxPtBytes) .ptSize (.i2cRead addr n) ∧
    (∀ d, shapeOK (.read addr n) d = true ↔ ∃ bs, bs.length = n ∧ d = [bs]) ∧
    (∀ bs : List Byte, bs.length = n → AnswersWith (.i2cRead addr n) (.read addr n) [bs] (rspPT [bs])) ∧
    TakesExceptions (.i2cRead addr n) (.read addr n)

/-- I2C_WRITE (42 R109). -/
def Obligations.PassthroughWrite : Prop :=
  ∀ (addr : Byte) (bs : List Byte),
    (∀ c, decode c = .ok (.i2cWrite addr bs) ↔
      opField c.cw = 0xC ∧ UsesOnly ⟨false, false, false, false, false⟩ c.cw ∧ addrField c.cw = addr ∧
        c.ptd = some (.writePT bs)) ∧
    (∀ c, opField c.cw = 0xC → UsesOnly ⟨false, false, false, false, false⟩ c.cw → (∀ m, c.ptd ≠ some (.writePT m)) →
      decode c = .error .ptShape) ∧
    IssuesWithin (fun p => bs.length ≤ p.maxPtBytes) (.i2cWrite addr bs) (.write addr bs) ∧
    RefusesBeyond (fun p => bs.length ≤ p.maxPtBytes) .ptSize (.i2cWrite addr bs) ∧
    (∀ d, shapeOK (.write addr bs) d = true ↔ d = []) ∧
    AnswersWith (.i2cWrite addr bs) (.write addr bs) [] (rspPT []) ∧
    TakesExceptions (.i2cWrite addr bs) (.write addr bs)

/-- I2C_WRITE_READ (42 R110). -/
def Obligations.PassthroughWriteRead : Prop :=
  ∀ (addr : Byte) (bs : List Byte) (n : Nat),
    (∀ c, decode c = .ok (.i2cWriteRead addr bs n) ↔
      opField c.cw = 0xD ∧ UsesOnly ⟨false, false, false, false, false⟩ c.cw ∧ addrField c.cw = addr ∧
        c.ptd = some (.writeReadPT bs n)) ∧
    (∀ c, opField c.cw = 0xD → UsesOnly ⟨false, false, false, false, false⟩ c.cw → (∀ m k, c.ptd ≠ some (.writeReadPT m k)) →
      decode c = .error .ptShape) ∧
    IssuesWithin (fun p => bs.length ≤ p.maxPtBytes ∧ n ≤ p.maxPtBytes) (.i2cWriteRead addr bs n) (.writeRead addr bs n) ∧
    RefusesBeyond (fun p => bs.length ≤ p.maxPtBytes ∧ n ≤ p.maxPtBytes) .ptSize (.i2cWriteRead addr bs n) ∧
    (∀ d, shapeOK (.writeRead addr bs n) d = true ↔ ∃ rs, rs.length = n ∧ d = [rs]) ∧
    (∀ rs : List Byte, rs.length = n → AnswersWith (.i2cWriteRead addr bs n) (.writeRead addr bs n) [rs] (rspPT [rs])) ∧
    TakesExceptions (.i2cWriteRead addr bs n) (.writeRead addr bs n)

/-- I2C_TXN (42 R111): segments forwarded in order, one part of the result for each read segment. -/
def Obligations.PassthroughTransaction : Prop :=
  ∀ (addr : Byte) (segs : List Seg),
    (∀ c, decode c = .ok (.i2cTxn addr segs) ↔
      opField c.cw = 0xE ∧ UsesOnly ⟨false, false, false, false, false⟩ c.cw ∧ addrField c.cw = addr ∧
        c.ptd = some (.txnPT segs)) ∧
    (∀ c, opField c.cw = 0xE → UsesOnly ⟨false, false, false, false, false⟩ c.cw → (∀ m, c.ptd ≠ some (.txnPT m)) →
      decode c = .error .ptShape) ∧
    IssuesWithin (fun p => segs.length ≤ p.maxPtSegs ∧ (∀ bs, Seg.write bs ∈ segs → bs.length ≤ p.maxPtBytes) ∧
      ∀ n, Seg.read n ∈ segs → n ≤ p.maxPtBytes) (.i2cTxn addr segs) (.txn addr segs) ∧
    RefusesBeyond (fun p => segs.length ≤ p.maxPtSegs ∧ (∀ bs, Seg.write bs ∈ segs → bs.length ≤ p.maxPtBytes) ∧
      ∀ n, Seg.read n ∈ segs → n ≤ p.maxPtBytes) .ptSize (.i2cTxn addr segs) ∧
    (∀ d, d.map List.length = segs.filterMap (fun | .read n => some n | .write _ => none) →
      AnswersWith (.i2cTxn addr segs) (.txn addr segs) d (rspPT d)) ∧
    TakesExceptions (.i2cTxn addr segs) (.txn addr segs)

/-! ## The transport contract and the bytes on the bus -/

/-- 20_memory R57: the read shape of a request, and the check of an answer against it. -/
def Obligations.AnswerShapeCheck : Prop :=
  (∀ a n, readShape (.read a n) = [n]) ∧
  (∀ a bs, readShape (.write a bs) = []) ∧
  (∀ a bs n, readShape (.writeRead a bs n) = [n]) ∧
  (∀ a segs, readShape (.txn a segs) = segs.filterMap fun | .read n => some n | .write _ => none) ∧
  (∀ (q : TReq) (d : ReadData), shapeOK q d = true ↔
    d.length = (readShape q).length ∧ ∀ i, i < d.length → (d[i]?.map List.length) = (readShape q)[i]?) ∧
  (∀ (i : Instr) (s : State) (q : TReq) (d : ReadData) (rest : List Input), s.Answered q (.ok d) rest →
    shapeOK q d = false → ∃ left, exec i s = .next { s with inputs := left, fault := some .badTransportResponse })

/-- 20_memory R51: the bytes each command writes and reads. -/
def Obligations.BytesEachCommandMoves : Prop :=
  ∀ (i : Instr), i.encodable = true →
    ((bytesWritten (frame i)).length, bytesRead (frame i)) = match i with
      | .quick _ _ => (0, 0)
      | .recvByte _ => (0, 1)
      | .sendByte _ _ => (1, 0)
      | .readByte _ _ => (1, 1)
      | .readWord _ _ => (1, 2)
      | .writeByte _ _ _ => (2, 0)
      | .writeWord _ _ _ => (3, 0)
      | .procCall _ _ _ => (3, 2)
      | .blockRead _ _ => (1, 32)
      | .blockWrite _ _ data => (2 + data.length, 0)
      | .blockProcCall _ _ data => (2 + data.length, 32)
      | .i2cRead _ n => (0, n)
      | .i2cWrite _ bs => (bs.length, 0)
      | .i2cWriteRead _ bs n => (bs.length, n)
      | .i2cTxn _ segs => ((segs.map fun | .write bs => bs.length | .read _ => 0).sum,
          (segs.map fun | .write _ => 0 | .read n => n).sum)

/-- 20_memory R44: the address of an accepted word is the address of its one request, whatever its value; and it plays no part in
admission: words that differ in the address alone are refused alike. -/
def Obligations.AddressForwardedUnchanged : Prop :=
  (∀ (c : Cmd) (i : Instr) (s : State), decode c = .ok i → s.fsm = .idle → s.Unmarked → i.wf s.params = true →
    ∃ t q, exec i s = .next t ∧ t.treq = some q ∧ TReq.addr q = addrField c.cw) ∧
  (∀ (c c' : Cmd) (F : RefuseReason), opField c.cw = opField c'.cw → qField c.cw = qField c'.cw →
    lenField c.cw = lenField c'.cw → reservedLow c.cw = reservedLow c'.cw → regField c.cw = regField c'.cw →
    d0Field c.cw = d0Field c'.cw → d1Field c.cw = d1Field c'.cw → reservedHigh c.cw = reservedHigh c'.cw →
    c.ptd = c'.ptd → (decode c = .error F ↔ decode c' = .error F))

/-! ## Acceptance -/

/-- The step at a presented command is `exec` of the command it decodes to: IDLE, unmarked, no reset standing next. -/
def Obligations.StepRunsThePresentedCommand : Prop :=
  ∀ (s : State) (c : Cmd) (i : Instr), s.fsm = .idle → s.Unmarked → s.inputs.head? ≠ some .reset →
    s.cmdPort = some c → decode c = .ok i → step s = exec i s

/-- The step at an answer is `exec` of the command the latched operands hold: BUSY, unmarked, a request outstanding. -/
def Obligations.StepRunsTheLatchedCommand : Prop :=
  ∀ (s : State) (q : TReq) (r : TRsp) (rest : List Input) (i : Instr), s.Answered q r rest →
    s.opr.command = some i → step s = exec i s

/-- The latched operands of an accepted command hold that command (40 R83). -/
def Obligations.LatchedCommandReadsBack : Prop :=
  ∀ i : Instr, i.encodable = true → (latch (encode i)).command = some i

/-- 10_state R36 with 30_encoding R75: a presented command is admitted or refused whole. Where admission refuses it with the first
failing check, the reason is recorded and nothing is latched or issued; where admission is `ok`, the presented command itself is
latched, `STAGE` and `RSP` are cleared, the request of its frame is issued and `FSM` is BUSY. That the waiting command is taken before
any other input is the model's (log 4), and so is what the ports show afterwards, which is left open (logs 12, 20). -/
def Obligations.AcceptanceFollowsAdmission : Prop :=
  ∀ (s : State) (c : Cmd), s.fsm = .idle → s.Unmarked → s.inputs.head? ≠ some .reset → s.cmdPort = some c →
    (∀ F, admission s.params c = some F → ∃ port, step s = .next { s with refused := some F, cmdPort := port }) ∧
    (admission s.params c = none → ∃ i withdrawn, decode c = .ok i ∧ i.wf s.params = true ∧ step s = .next { s with
      opr := latch c
      treq := some (frame i)
      stage := Cells.bottom
      rsp := Rsp.bottom
      fsm := .busy
      cmdPort := none
      withdraw := withdrawn
      treqLog := s.treqLog ++ [.request (frame i)] })

/-- 10_state R28, R29: what an accepted command latches of `WB` and of `PTD`, beside its word: cells 0 to `LEN-1` of a block
write's data, the descriptor of a passthrough command, `⊥` everywhere else. -/
def Obligations.OperandsLatchedAtAcceptance : Prop :=
  ∀ (c : Cmd) (i : Instr) (s : State), decode c = .ok i → s.fsm = .idle → s.Unmarked → i.wf s.params = true →
    ∃ t, exec i s = .next t ∧ t.fsm = .busy ∧ t.opr.cw = some c.cw ∧
      (opField c.cw = 0x9 ∨ opField c.cw = 0xA → ∀ k : Fin 32, t.opr.wbuf[k.val] =
        if k.val < (lenField c.cw).toNat then some c.wb[k.val] else none) ∧
      (opField c.cw ≠ 0x9 → opField c.cw ≠ 0xA → ∀ k : Fin 32, t.opr.wbuf[k.val] = none) ∧
      (0xB ≤ (opField c.cw).toNat → t.opr.ptd = c.ptd) ∧
      ((opField c.cw).toNat < 0xB → t.opr.ptd = none)

/-- 30_encoding R72: the inputs a command does not use have no effect on its decoding, on what is latched, or on the step that
accepts or refuses it. That this step comes before any other input is the model's (log 4), and so is that a refusal frees the command
port (log 20): a port that still shows the refused command would show the inputs in which the two differ. -/
def Obligations.IgnoredInputsHaveNoEffect : Prop :=
  ∀ c c' : Cmd, SameUsedInputs c c' →
    decode c = decode c' ∧ latch c = latch c' ∧
    ∀ s : State, s.fsm = .idle → s.Unmarked → s.inputs.head? ≠ some .reset →
      step { s with cmdPort := some c } = step { s with cmdPort := some c' }

/-- 10_state R35, R36; 70 R135: presenting a command puts it on the free port, in every controller state, and changes nothing else.
While `FSM` is not IDLE it is not accepted: it stands there, unlatched, through every step but a reset; and the step that finds `FSM`
= IDLE takes it from the port, unmarked and no reset standing next. Of this the model's own are: that it is taken before any other
input (log 4), that another command presented meanwhile leaves it on the port (log 5), and that a refusal takes it from the port too
(log 20). -/
def Obligations.PresentedCommandWaitsUntilIdle : Prop :=
  (∀ (s t : State) (c : Cmd), s.fsm ≠ .idle → s.cmdPort = some c → s.inputs.head? ≠ some .reset → step s = .next t →
    t.cmdPort = some c ∧ (t.fsm ≠ .idle → t.opr = s.opr)) ∧
  (∀ (s : State) (c : Cmd) (rest : List Input), s.Unmarked → s.cmdPort = none →
    s.inputs = .present c :: rest → step s = .next { s with inputs := rest, cmdPort := some c }) ∧
  (∀ (s : State) (c : Cmd), s.fsm = .idle → s.Unmarked → s.cmdPort = some c → s.inputs.head? ≠ some .reset →
    ∃ t, step s = .next t ∧ t.cmdPort = none ∧ (t.fsm = .busy ∨ t.refused ≠ none))

/-! ## Answers, faults and errors -/

/-- 60_exceptions R114: an error answer ends every command with the error unchanged, and nothing else changes: `STAGE` is not
written and no further request is issued. -/
def Obligations.TransportErrorForwardedUnchanged : Prop :=
  ∀ (i : Instr) (s : State) (q : TReq) (e : TransportError) (rest : List Input), s.Answered q (.err e) rest →
    exec i s = .next { s with
      inputs := rest
      rsp := { rstat := some 1, rerr := some e, rkind := none, rbyte := none, rword := none, rlen := none,
               rbuf := Vector.replicate 32 none, rpt := none }
      treq := none
      fsm := .done }

/-- 60_exceptions R115: the block never inspects an error value. Replacing every error value by another, in any way whatever, and
then stepping is the same as stepping and then replacing. -/
def Obligations.ErrorValuesAreNeverInspected : Prop :=
  ∀ (f : TransportError → TransportError) (s : State), step (s.mapError f) = mapErrorOutcome f (step s)

/-- 00_scope R8: the error type is an argument of the machine, and the block runs alike for every one (60_exceptions R115). The
machine of `step` and `core` is the one whose errors are `TransportError`s, with the limits of log 2; taking the errors of one type to
another, in any way whatever, and stepping is the same as stepping and taking them there; and every state of every machine whose error
type has a value is one of `TransportError`'s with its errors taken to that type (log 1), so that what `step` does there the other
machine does. -/
def Obligations.EveryErrorTypeRunsAlike : Prop :=
  (∀ s : State, stepOf s = step s) ∧ coreOf TransportError Config.resetParams = Sys2Proof.core ∧
  (∀ (E E' : Type) (f : E → E') (s : State E), stepOf (s.mapError f) = mapErrorOutcome f (stepOf s)) ∧
  (∀ (E E' : Type) (f : E → E') (p : Params), (State.resetWith p : State E).mapError f = State.resetWith p) ∧
  (∀ (E : Type) (_ : E) (u : State E), ∃ (s : State) (f : TransportError → E),
    s.mapError f = u ∧ stepOf u = mapErrorOutcome f (step s))

/-- 41 R100: for every length prefix `N` and every 32 bytes that begin with it, a block read and a block read process call return
`min(N+1, 32)` elements, the prefix first; the cells past them hold `⊥`; clamping is no error (41 R105). -/
def Obligations.BlockResultIsTruncatedAndClamped : Prop :=
  ∀ (i : Instr) (s : State) (q : TReq) (n : Byte) (bs : List Byte) (rest : List Input),
    ((∃ addr reg, i = .blockRead addr reg) ∨ ∃ addr reg data, i = .blockProcCall addr reg data) →
    bs.length = 31 → readShape q = [32] → s.Answered q (.ok [n :: bs]) rest →
    ∃ t, exec i s = .next t ∧ t.fsm = .done ∧ t.fault = none ∧ t.rsp.rstat = some 0 ∧ t.rsp.rkind = some .block ∧
      (∃ len : BitVec 6, t.rsp.rlen = some len ∧ len.toNat = min (n.toNat + 1) 32) ∧
      t.rsp.rbuf[0] = some n ∧
      (∀ k : Fin 32, t.rsp.rbuf[k.val] = if k.val < min (n.toNat + 1) 32 then (n :: bs)[k.val]? else none) ∧
      (∀ k : Fin 32, t.stage[k.val] = (n :: bs)[k.val]?)

/-- 40 R97: a Read Word answered with the two data bytes a Write Word wrote, in the order written, returns the word written. -/
def Obligations.WordRoundTripThroughADevice : Prop :=
  ∀ (addr reg : Byte) (word : Word) (s t u : State) (q : TReq) (rest : List Input),
    s.fsm = .idle → s.Unmarked → exec (.writeWord addr reg word) s = .next t →
    u.Answered q (.ok [(bytesWritten ((t.treq).getD q)).drop 1]) rest → q = .writeRead addr [reg] 2 →
    ∃ v, exec (.readWord addr reg) u = .next v ∧ v.rsp.rword = some word ∧ v.rsp.rstat = some 0

/-- 42 R113: the request of the block above, carried by the passthrough command of the block below, is issued by the block below
unchanged or, beyond its limits, refused; and the answer the block below receives reaches the block above unchanged. -/
def Obligations.ChainedRequestPassesUnchanged : Prop :=
  ∀ q : TReq,
    (∀ s : State, s.fsm = .idle → s.Unmarked →
      ((chainCommand q).wf s.params = true → ∃ t, exec (chainCommand q) s = .next t ∧ t.treq = some q ∧ t.fsm = .busy) ∧
      ((chainCommand q).wf s.params = false → ∃ t, exec (chainCommand q) s = .next t ∧ t.refused = some .ptSize ∧
        t.treq = s.treq)) ∧
    (∀ (s : State) (r : TRsp) (rest : List Input), s.Answered q r rest → (∀ d, r = .ok d → shapeOK q d = true) →
      ∃ t, exec (chainCommand q) s = .next t ∧ t.fsm = .done ∧ chainAnswer t.rsp = some r)

/-! ## The Caller's acts -/

/-- 10_state R38: in DONE, Ack delivers the response, records the pair, clears `OPR`, `STAGE` and `RSP`, and the block is IDLE. -/
def Obligations.AckDeliversAndClears : Prop :=
  ∀ (s : State) (rest : List Input), s.fsm = .done → s.Unmarked → s.inputs = .ack :: rest →
    step s = .next { s with
      inputs := rest
      obs := s.obs ++ [⟨s.opr, .response s.rsp⟩]
      opr := ⟨none, Vector.replicate 32 none, none⟩
      stage := Vector.replicate 32 none
      rsp := { rstat := none, rerr := none, rkind := none, rbyte := none, rword := none, rlen := none,
               rbuf := Vector.replicate 32 none, rpt := none }
      fsm := .idle }

/-- Outside DONE Ack is not enabled (10_state R38): in BUSY, and in IDLE with nothing presented (95 2.6, "unchanged"), it leaves the
block as it is. That the act is taken off the inputs, and is not kept for later, is the model's (log 6). -/
def Obligations.AckOutsideDoneHasNoEffect : Prop :=
  ∀ (s : State) (rest : List Input), s.fsm = .busy ∨ (s.fsm = .idle ∧ s.cmdPort = none) → s.Unmarked →
    s.inputs = .ack :: rest → step s = .next { s with inputs := rest }

/-- 10_state R39: in BUSY, Cancel withdraws the request and ends the command with no response; in IDLE, nothing being presented,
and in DONE it has no effect. -/
def Obligations.CancelWithdrawsInBusyOnly : Prop :=
  (∀ (s : State) (q : TReq) (rest : List Input), s.fsm = .busy → s.treq = some q → s.Unmarked → s.inputs = .cancel :: rest →
    step s = .next { s with
      inputs := rest
      obs := s.obs ++ [⟨s.opr, .cancelled⟩]
      treq := none
      withdraw := some q
      treqLog := s.treqLog ++ [.withdrawn q]
      opr := Opr.bottom
      stage := Cells.bottom
      rsp := Rsp.bottom
      fsm := .idle }) ∧
  (∀ (s : State) (rest : List Input), (s.fsm = .idle ∧ s.cmdPort = none) ∨ s.fsm = .done → s.Unmarked →
    s.inputs = .cancel :: rest → step s = .next { s with inputs := rest })

/-- 60_exceptions R123: in BUSY both orders of Respond and Cancel exist. Respond first: the later Cancel finds DONE and has no
effect. Cancel first: the request is withdrawn, and the block is IDLE with no response; a command waiting on the port still stands
there. Of what comes next the model's own are: where a command waits, it is taken before the answer (log 4); where none waits, the
answer, which nothing asks for any more, is dropped without effect (log 7; 70 R137 gives it no move). -/
def Obligations.CancelAndRespondInEitherOrder : Prop :=
  (∀ (s : State) (q : TReq) (r : TRsp) (rest : List Input), s.Inv → s.Answered q r (.cancel :: rest) →
    (∀ d, r = .ok d → shapeOK q d = true) →
    ∃ t, step s = .next t ∧ t.fsm = .done ∧ step t = .next { t with inputs := rest }) ∧
  (∀ (s : State) (q : TReq) (r : TRsp) (rest : List Input), s.fsm = .busy → s.Unmarked → s.treq = some q →
    s.inputs = .cancel :: .respond r :: rest →
    ∃ t, step s = .next t ∧ t.fsm = .idle ∧ t.treq = none ∧ t.withdraw = some q ∧ t.rsp = Rsp.bottom ∧
      t.cmdPort = s.cmdPort ∧ t.inputs = .respond r :: rest ∧
      (∀ c i, s.cmdPort = some c → decode c = .ok i → step t = exec i t) ∧
      (s.cmdPort = none → step t = .next { t with inputs := rest }))

/-- 70 R136: the response is readable only in DONE, and there a field is read if it holds a value; every other read is the fault
`UNWRITTEN_READ`, and reading changes nothing else. -/
def Obligations.ResponseReadableOnlyInDone : Prop :=
  ∀ (s : State) (f : RspField) (rest : List Input), s.Unmarked → s.inputs = .read f :: rest →
    (s.fsm = .idle → s.cmdPort = none) →
    (∀ v, s.fsm = .done → s.rsp.field f = some v →
      step s = .next { s with inputs := rest, callerReads := s.callerReads ++ [v] }) ∧
    (s.fsm ≠ .done ∨ s.rsp.field f = none → step s = .next { s with inputs := rest, fault := some .unwrittenRead })

/-- 10_state R31: the value each field of the response record gives when it is read. -/
def Obligations.ResponseFieldsReadTheirValues : Prop :=
  (∀ r : Rsp, r.field .rstat = r.rstat.map .stat ∧ r.field .rerr = r.rerr.map .err ∧
    r.field .rbyte = r.rbyte.map .byte ∧ r.field .rword = r.rword.map .word ∧ r.field .rlen = r.rlen.map .len ∧
    r.field .rpt = r.rpt.map .pt ∧ ∀ k : Fin 32, r.field (.rbuf k) = (r.rbuf[k.val]).map .byte) ∧
  (∀ r : Rsp, (r.rkind = none → r.field .rkind = none) ∧
    (r.rkind = some .none → r.field .rkind = some (.kind 0)) ∧ (r.rkind = some .byte → r.field .rkind = some (.kind 1)) ∧
    (r.rkind = some .word → r.field .rkind = some (.kind 2)) ∧ (r.rkind = some .block → r.field .rkind = some (.kind 3)) ∧
    (r.rkind = some .pt → r.field .rkind = some (.kind 4)))

/-- 10_state R34, R40: while a fault or a refusal is recorded, no step but Reset changes anything; which inputs are still to come is
left open (log 6). -/
def Obligations.MarksDisableEveryStepButReset : Prop :=
  ∀ s : State, s.fault.isSome = true ∨ s.refused.isSome = true →
    (s.inputs.head? ≠ some .reset → ∃ left, step s = .next { s with inputs := left }) ∧
    (∀ i : Instr, exec i s = .next s) ∧
    (∀ rest, s.inputs = .reset :: rest → ∃ t, step s = .next t ∧ t.fault = none ∧ t.refused = none ∧ t.fsm = .idle)

/-- 70 R130, R131; 10_state R40: Reset, in every state, sets every piece of state to its reset value and begins a new run with an
empty observation; a request outstanding is withdrawn. -/
def Obligations.ResetFromEveryState : Prop :=
  ∀ (s : State) (rest : List Input), s.inputs = .reset :: rest →
    ∃ t, step s = .next t ∧ t.fsm = .idle ∧ t.opr = ⟨none, Vector.replicate 32 none, none⟩ ∧ t.treq = none ∧
      t.stage = Vector.replicate 32 none ∧
      t.rsp = { rstat := none, rerr := none, rkind := none, rbyte := none, rword := none, rlen := none,
                rbuf := Vector.replicate 32 none, rpt := none } ∧
      t.fault = none ∧ t.refused = none ∧ t.obs = [] ∧ t.treqLog = [] ∧
      (∀ q, s.fsm = .busy → s.treq = some q → t.withdraw = some q)

/-- 10_state R43: the reset values, with 10_state R25's code of IDLE. -/
def Obligations.ResetValues : Prop :=
  State.reset.fsm.code = 0b00 ∧ State.reset.opr.cw = none ∧ State.reset.opr.wbuf = Vector.replicate 32 none ∧
  State.reset.opr.ptd = none ∧ State.reset.treq = none ∧ State.reset.stage = Vector.replicate 32 none ∧
  State.reset.rsp = { rstat := none, rerr := none, rkind := none, rbyte := none, rword := none, rlen := none,
                      rbuf := Vector.replicate 32 none, rpt := none } ∧
  State.reset.fault = none ∧ State.reset.refused = none ∧ State.reset.obs = [] ∧ State.reset.treqLog = []

/-- 10_state R25, R35: the code of each controller state, 0b11 the code of none, and the two indications the command port gives the
Caller: ready in IDLE, and in no other state; the response valid in DONE, and in no other state. -/
def Obligations.ControllerCodesAndIndications : Prop :=
  (∀ s : State, (s.fsm = .idle ↔ s.fsm.code = 0b00) ∧ (s.fsm = .busy ↔ s.fsm.code = 0b01) ∧
    (s.fsm = .done ↔ s.fsm.code = 0b10) ∧ s.fsm.code ≠ 0b11) ∧
  (∀ s : State, (s.ready = true ↔ s.fsm = .idle) ∧ (s.rspValid = true ↔ s.fsm = .done))

/-! ## Rules about every step -/

/-- 70 R140: in BUSY, with no mark, only an answer, Cancel or Reset changes the block; without any input the block stays as it is. -/
def Obligations.BusyUntilAnswerCancelOrReset : Prop :=
  (∀ s : State, s.fsm = .busy → s.inputs = [] → step s = .next s) ∧
  (∀ s t : State, s.fsm = .busy → step s = .next t → t.fsm ≠ .busy →
    (∃ r, s.inputs.head? = some (.respond r)) ∨ s.inputs.head? = some .cancel ∨ s.inputs.head? = some .reset)

/-- 60_exceptions R125: Ack is the only way out of DONE, and Reset. -/
def Obligations.OnlyAckOrResetLeavesDone : Prop :=
  ∀ s t : State, s.fsm = .done → step s = .next t → t.fsm ≠ .done →
    s.inputs.head? = some .ack ∨ s.inputs.head? = some .reset

/-- 20_memory R59, R62: a request is issued only by the step that accepts a command in IDLE, one request a step; every other step
leaves the requests issued as they are. Reset begins a new log. -/
def Obligations.RequestsIssuedOnlyAtAcceptance : Prop :=
  ∀ s t : State, step s = .next t →
    requestsIssued t.treqLog = requestsIssued s.treqLog ∨
    (s.fsm = .idle ∧ s.Unmarked ∧ ∃ q, t.treq = some q ∧ t.fsm = .busy ∧
      requestsIssued t.treqLog = requestsIssued s.treqLog ++ [q]) ∨
    (s.inputs.head? = some .reset ∧ t.treqLog = [])

/-- 10_state R33: the staging buffer is written by the answer to a block read or a block read process call alone; every other step
leaves it or clears it; acceptance of a command clears it, and so does the end of a command. -/
def Obligations.StageWrittenOnlyByBlockReads : Prop :=
  ∀ s t : State, step s = .next t →
    (t.stage = s.stage ∨ t.stage = Vector.replicate 32 none ∨
      (s.fsm = .busy ∧ t.fsm = .done ∧ (∃ d, s.inputs.head? = some (.respond (.ok d))) ∧
        ((∃ addr reg, s.opr.command = some (.blockRead addr reg)) ∨
         ∃ addr reg data, s.opr.command = some (.blockProcCall addr reg data)))) ∧
    (s.fsm = .idle → t.fsm = .busy → t.stage = Vector.replicate 32 none) ∧
    (s.fsm ≠ .idle → t.fsm = .idle → t.stage = Vector.replicate 32 none)

/-- 10_state R32: the status flag is written by the Transport's response step; every other step leaves it or clears it. -/
def Obligations.StatusWrittenOnlyByResponse : Prop :=
  ∀ s t : State, step s = .next t → t.rsp.rstat = s.rsp.rstat ∨ t.rsp.rstat = none ∨
    (s.fsm = .busy ∧ t.fsm = .done ∧ ∃ r, s.inputs.head? = some (.respond r) ∧
      ((∃ d, r = .ok d) → t.rsp.rstat = some 0) ∧ ((∃ e, r = .err e) → t.rsp.rstat = some 1))

/-- The observation only grows, by at most one entry a step, until Reset begins a new run (00_scope R11; 70 R130); and no step, Reset
included, changes the parameters (00_scope R8). That they stand in the state, and that Reset keeps them, is the model's (logs 2, 13). -/
def Obligations.ObservationOnlyGrows : Prop :=
  ∀ s t : State, step s = .next t →
    t.params = s.params ∧
    (s.inputs.head? ≠ some .reset →
      (t.obs = s.obs ∨ ∃ e, t.obs = s.obs ++ [e]) ∧ (t.treqLog = s.treqLog ∨ ∃ e, t.treqLog = s.treqLog ++ [e]))

/-- 70 R144: a run that has ended well keeps its result, the observation of 00_scope R11, through every step until a Reset begins a
new run with an empty one; no further request is issued in it. It stays ended well, but for the Caller's read of the
response, which is no longer there (70 R136). -/
def Obligations.EndedRunKeepsItsResult : Prop :=
  ∀ s t : State, s.EndedWell → step s = .next t →
    (s.inputs.head? ≠ some .reset → t.result = s.result ∧ t.fsm = .idle ∧ t.treq = s.treq ∧
      (t.EndedWell ∨ (t.fault = some .unwrittenRead ∧ ∃ f, s.inputs.head? = some (.read f)))) ∧
    (s.inputs.head? = some .reset → t.result = ([], []) ∧ t.fsm = .idle)

/-! ## The invariants -/

/-- The reset state, and that of every machine with positive parameters, meets the invariants. -/
def Obligations.InvariantsHoldAtReset : Prop :=
  State.reset.Inv ∧ State.reset.LogInv ∧ ∀ p : Params, p.Positive → (State.resetWith p).Inv ∧ (State.resetWith p).LogInv

/-- Every step keeps the invariant: what holds `⊥` in which controller state, which request is outstanding, the shape of the
response record (10_state R25 to R34). -/
def Obligations.EveryStepKeepsTheInvariant : Prop :=
  ∀ s t : State, s.Inv → step s = .next t → t.Inv

/-- Every step keeps the log: every command accepted issues exactly one request, its own, in command order, and exactly the
cancelled commands' requests are withdrawn (20_memory R58, R61; 10_state R26). -/
def Obligations.EveryCommandIssuesExactlyOneRequest : Prop :=
  ∀ s t : State, s.Inv → s.LogInv → step s = .next t → t.LogInv

/-- Where the invariant holds, a fault is recorded only when the Transport answers with the wrong shape or the Caller reads a field
that holds `⊥`: no rule of the block itself ever reads `⊥` (60_exceptions R120; 10_state R31). -/
def Obligations.FaultsComeOnlyFromBreaches : Prop :=
  ∀ (s t : State) (F : Fault), s.Inv → s.fault = none → step s = .next t → t.fault = some F →
    (F = .badTransportResponse ∧ ∃ q d rest, s.Answered q (.ok d) rest ∧ shapeOK q d = false) ∨
    (F = .unwrittenRead ∧ ∃ f, s.inputs.head? = some (.read f) ∧ (s.fsm ≠ .done ∨ s.rsp.field f = none))

/-- From a presented command to the delivery of its response: with an answer of the right shape or an error, and Ack, to come, three
steps issue the command's one request, decode the answer and deliver the response; the block is IDLE with every register at `⊥`, and
the observation has exactly the command and its response more (00_scope R11; 10_state R36 to R38; 40 R83). The response depends on
the command and the answer alone. That the command on the port is taken although the answer already stands next is the model's
(log 4). What the withdraw indication shows is left open (log 12). -/
def Obligations.CommandRunsFromPresentationToDelivery : Prop :=
  ∀ (c : Cmd) (i : Instr) (r : TRsp), decode c = .ok i → (∀ d, r = .ok d → shapeOK (frame i) d = true) →
    ∃ rsp : Rsp, rsp.Shaped ∧ ∀ (s : State) (rest : List Input), s.Inv → s.fsm = .idle → s.Unmarked →
      i.wf s.params = true → s.cmdPort = some c → s.inputs = .respond r :: .ack :: rest →
      ∃ withdrawn, Host.Core.run Sys2Proof.core 3 s = .next { s with
        inputs := rest
        cmdPort := none
        withdraw := withdrawn
        obs := s.obs ++ [⟨latch c, .response rsp⟩]
        treqLog := s.treqLog ++ [.request (frame i)] }
end

