-- ==== Sys2Proof/Laws/Cells.lean ====
section
/-! SUPPORT. The cells of the 32-cell buffers, one by one: what a latch, a fill and a truncation put into each, and how cells are
read back. -/

namespace Sys2Proof.Machine

@[simp] theorem bottom_cell (i : Nat) (h : i < 32) : Cells.bottom[i] = none := by
  simp [Cells.bottom]

@[simp] theorem cellsOf_cell (bs : List Byte) (i : Nat) (h : i < 32) : (cellsOf bs)[i] = bs[i]? := by
  simp [cellsOf]

@[simp] theorem stageFill_cell (d : ReadData) (i : Nat) (h : i < 32) : (stageFill d)[i] = byteAt d 0 i := by
  simp [stageFill]

@[simp] theorem cellsTake_cell (n : Nat) (cells : Cells) (i : Nat) (h : i < 32) :
    (cellsTake n cells)[i] = if i < n then cells[i] else none := by
  simp [cellsTake]

@[simp] theorem writeBufOf_cell (data : List Byte) (i : Nat) (h : i < 32) :
    (writeBufOf data)[i] = (data[i]?).getD 0 := by
  simp [writeBufOf]

/-- No data leave every cell at `⊥`. -/
theorem cellsOf_nil : cellsOf [] = Cells.bottom := by
  apply Vector.ext
  intro i h
  simp

/-- A byte of a single read part. -/
@[simp] theorem byteAt_single (part : List Byte) (j : Nat) : byteAt [part] 0 j = part[j]? := rfl

/-- The first cells of a latched list are the list, where it fits. -/
theorem cellsRead_cellsOf (bs : List Byte) (h : bs.length ≤ 32) : cellsRead bs.length (cellsOf bs) = some bs := by
  have key : (cellsOf bs).toList.take bs.length = bs.map some := by
    apply List.ext_getElem
    · simp; omega
    · intro i h1 h2
      simp only [List.length_map] at h2
      simp [cellsOf]
  rw [cellsRead, key]
  clear key h
  induction bs with
  | nil => rfl
  | cons b bs ih => simp [List.mapM_cons, ih]

/-- Reading no cells gives no bytes. -/
@[simp] theorem cellsRead_zero (cells : Cells) : cellsRead 0 cells = some [] := rfl

/-- The data an encoder puts into `WB` are its first cells. -/
theorem writeBufOf_take (data : List Byte) (h : data.length ≤ 32) :
    (writeBufOf data).toList.take data.length = data := by
  apply List.ext_getElem
  · simp; omega
  · intro i h1 h2
    simp [writeBufOf, h2]

/-- The length field holds the number of data bytes, where there are at most 32. -/
theorem lengthField_toNat (data : List Byte) (h : data.length ≤ 32) : (lengthField data).toNat = data.length := by
  simp [lengthField]; omega

/-- The length prefix is the number of data bytes, where there are at most 32. -/
theorem lengthByte_toNat (data : List Byte) (h : data.length ≤ 32) : (lengthByte data).toNat = data.length := by
  simp [lengthByte, lengthField]; omega

/-- The effective length is between 1 and 32. -/
theorem effectiveLength_bounds (n : Byte) : 1 ≤ effectiveLength n ∧ effectiveLength n ≤ 32 := by
  unfold effectiveLength; omega

end Sys2Proof.Machine
end

