-- ==== Sys2Proof/Laws/Decode.lean ====
section
/-! SUPPORT. The fields of a packed command word, a word as the pack of its fields, and what it takes for a word to decode. -/

namespace Sys2Proof

/-- Joining two bit vectors multiplies the high one by its weight. -/
theorem toNat_append_add {n m : Nat} (x : BitVec n) (y : BitVec m) :
    (x ++ y).toNat = x.toNat * 2 ^ m + y.toNat := by
  rw [BitVec.toNat_append, Nat.shiftLeft_eq, ← Nat.shiftLeft_eq, ← Nat.shiftLeft_add_eq_or_of_lt y.isLt,
    Nat.shiftLeft_eq]

section Fields
variable (op : BitVec 4) (q : BitVec 1) (len : BitVec 6) (addr reg d0 d1 : Byte)

/-- The packed word as a number: each field at the weight of its lowest bit (30_encoding R67). -/
theorem packWord_toNat : (packWord op q len addr reg d0 d1).toNat =
    d1.toNat * 2 ^ 36 + d0.toNat * 2 ^ 28 + reg.toNat * 2 ^ 20 + addr.toNat * 2 ^ 12 + len.toNat * 2 ^ 5
      + q.toNat * 2 ^ 4 + op.toNat := by
  have h : (packWord op q len addr reg d0 d1).toNat
      = (0#4 ++ d1 ++ d0 ++ reg ++ addr ++ 0#1 ++ len ++ q ++ op).toNat := rfl
  simp only [h, toNat_append_add, BitVec.toNat_ofNat]
  omega

/-- A field of a word as a number. -/
theorem field_toNat (cw : CmdWord) (start w : Nat) :
    (cw.extractLsb' start w).toNat = cw.toNat / 2 ^ start % 2 ^ w := by
  rw [BitVec.extractLsb'_toNat, Nat.shiftRight_eq_div_pow]

@[simp] theorem opField_packWord : opField (packWord op q len addr reg d0 d1) = op := by
  apply BitVec.eq_of_toNat_eq
  rw [opField, field_toNat, packWord_toNat]; omega

@[simp] theorem qField_packWord : qField (packWord op q len addr reg d0 d1) = q := by
  apply BitVec.eq_of_toNat_eq
  rw [qField, field_toNat, packWord_toNat]; omega

@[simp] theorem lenField_packWord : lenField (packWord op q len addr reg d0 d1) = len := by
  apply BitVec.eq_of_toNat_eq
  rw [lenField, field_toNat, packWord_toNat]; omega

@[simp] theorem reservedLow_packWord : reservedLow (packWord op q len addr reg d0 d1) = 0 := by
  apply BitVec.eq_of_toNat_eq
  rw [reservedLow, field_toNat, packWord_toNat]; simp; omega

@[simp] theorem addrField_packWord : addrField (packWord op q len addr reg d0 d1) = addr := by
  apply BitVec.eq_of_toNat_eq
  rw [addrField, field_toNat, packWord_toNat]; omega

@[simp] theorem regField_packWord : regField (packWord op q len addr reg d0 d1) = reg := by
  apply BitVec.eq_of_toNat_eq
  rw [regField, field_toNat, packWord_toNat]; omega

@[simp] theorem d0Field_packWord : d0Field (packWord op q len addr reg d0 d1) = d0 := by
  apply BitVec.eq_of_toNat_eq
  rw [d0Field, field_toNat, packWord_toNat]; omega

@[simp] theorem d1Field_packWord : d1Field (packWord op q len addr reg d0 d1) = d1 := by
  apply BitVec.eq_of_toNat_eq
  rw [d1Field, field_toNat, packWord_toNat]; omega

@[simp] theorem reservedHigh_packWord : reservedHigh (packWord op q len addr reg d0 d1) = 0 := by
  apply BitVec.eq_of_toNat_eq
  rw [reservedHigh, field_toNat, packWord_toNat]; simp; omega

end Fields

/-- The word field is the two data fields, the low byte first (30_encoding R71). -/
theorem wordField_toNat (cw : CmdWord) : (wordField cw).toNat = (d1Field cw).toNat * 2 ^ 8 + (d0Field cw).toNat := by
  rw [wordField, d1Field, d0Field, field_toNat, field_toNat, field_toNat]; omega

/-- A word is the pack of its fields when its reserved bits are zero. -/
theorem packWord_fields (cw : CmdWord) (hl : reservedLow cw = 0) (hh : reservedHigh cw = 0) :
    packWord (opField cw) (qField cw) (lenField cw) (addrField cw) (regField cw) (d0Field cw) (d1Field cw) = cw := by
  have hl' : (reservedLow cw).toNat = 0 := by rw [hl]; rfl
  have hh' : (reservedHigh cw).toNat = 0 := by rw [hh]; rfl
  rw [reservedLow, field_toNat] at hl'
  rw [reservedHigh, field_toNat] at hh'
  apply BitVec.eq_of_toNat_eq
  simp only [packWord_toNat, opField, qField, lenField, addrField, regField, d0Field, d1Field, field_toNat]
  have := cw.isLt
  omega

/-- Low and high byte of a word as numbers. -/
theorem loByte_toNat (w : Word) : (loByte w).toNat = w.toNat % 2 ^ 8 := by
  simp [loByte]

/-- The high byte of a word as a number. -/
theorem hiByte_toNat (w : Word) : (hiByte w).toNat = w.toNat / 2 ^ 8 := by
  have := w.isLt
  simp [hiByte, Nat.shiftRight_eq_div_pow]; omega

/-- `le16` as a number: the second byte weighs 256. -/
theorem le16_toNat (b0 b1 : Byte) : (le16 b0 b1).toNat = b1.toNat * 2 ^ 8 + b0.toNat := by
  have h0 := b0.isLt
  have h1 := b1.isLt
  have hs : (b1.toNat % 2 ^ 16) <<< 8 % 2 ^ 16 = b1.toNat <<< 8 := by
    simp only [Nat.shiftLeft_eq]; omega
  rw [le16, BitVec.toNat_or, BitVec.toNat_shiftLeft, BitVec.toNat_setWidth, BitVec.toNat_setWidth, hs,
    Nat.mod_eq_of_lt (show b0.toNat < 2 ^ 16 by omega), ← Nat.shiftLeft_add_eq_or_of_lt h0, Nat.shiftLeft_eq]

/-- The word field holds a word exactly when the data fields hold its two bytes. -/
theorem wordField_eq_iff (cw : CmdWord) (w : Word) : wordField cw = w ↔ d0Field cw = loByte w ∧ d1Field cw = hiByte w := by
  have h := wordField_toNat cw
  have h0 := (d0Field cw).isLt
  have h1 := (d1Field cw).isLt
  constructor
  · rintro rfl
    constructor <;> apply BitVec.eq_of_toNat_eq
    · rw [loByte_toNat]; omega
    · rw [hiByte_toNat]; omega
  · rintro ⟨e0, e1⟩
    apply BitVec.eq_of_toNat_eq
    rw [h, e0, e1, loByte_toNat, hiByte_toNat]; omega

/-! ## What it takes to decode -/

open Machine in
/-- The checks of the word's form, in the terms of 30_encoding R70. -/
theorem usesOnly_iff (cw : CmdWord) :
    UsesOnly (fieldUse (opField cw)) cw ↔ reservedLow cw = 0 ∧ reservedHigh cw = 0 ∧ unusedFieldSet cw = false := by
  simp only [unusedFieldSet, UsesOnly, Bool.or_eq_false_iff, Bool.and_eq_false_iff, Bool.not_eq_false', bne_eq_false_iff_eq]
  generalize fieldUse (opField cw) = u
  obtain ⟨q, len, reg, d0, d1⟩ := u
  cases q <;> cases len <;> cases reg <;> cases d0 <;> cases d1 <;> simp [and_assoc]

open Machine in
/-- A word passes the checks that look at it alone. -/
theorem wordRefusal_none_iff (cw : CmdWord) : wordRefusal cw = none ↔ opField cw ≠ 0xF ∧
    UsesOnly (fieldUse (opField cw)) cw ∧ (isBlockWriteOp (opField cw) = true → (lenField cw).toNat ≤ 32) := by
  rw [usesOnly_iff]
  unfold wordRefusal
  constructor
  · intro h
    split at h; · cases h
    split at h; · cases h
    split at h; · cases h
    split at h; · cases h
    rename_i h1 h2 h3 h4
    simp only [not_or, not_and, not_lt, ne_eq, not_not] at h2 h4
    exact ⟨h1, ⟨h2.1, h2.2, by simpa using h3⟩, h4⟩
  · rintro ⟨h1, ⟨h2, h3, h4⟩, h5⟩
    rw [if_neg h1, if_neg (by simp [h2, h3]), if_neg (by simp [h4]), if_neg]
    rintro ⟨hb, hl⟩
    have := h5 hb
    omega

/-- The decoder accepts what passes both parts of admission. -/
theorem decode_ok_iff (c : Cmd) (i : Instr) :
    decode c = .ok i ↔ wordRefusal c.cw = none ∧ decodeOperands c = .ok i := by
  unfold decode
  split
  · rename_i h; simp [h]
  · rename_i h; simp [h]

/-- A field's number is the field. -/
theorem opField_eq_of_toNat {cw : CmdWord} {n : Nat} (h : (opField cw).toNat = n) : opField cw = BitVec.ofNat 4 n := by
  subst h; simp

/-- The opcode of the command decoded is the word's. -/
theorem opcode_of_decodeOperands {c : Cmd} {i : Instr} (h : decodeOperands c = .ok i) : opField c.cw = i.opcode := by
  unfold decodeOperands at h
  split at h
  all_goals rename_i ho
  all_goals try split at h
  all_goals try (cases h; done)
  all_goals injection h with h; subst h
  all_goals exact opField_eq_of_toNat ho

/-- No command has the reserved opcode. -/
theorem opcode_ne_reserved (i : Instr) : i.opcode ≠ 0xF := by
  cases i <;> simp [Instr.opcode]

open Machine in
/-- A presented command decodes to `i` when its opcode is `i`'s, it uses only `i`'s fields, a block length is at most 32, and its
operands are `i`'s. -/
theorem decode_iff (c : Cmd) (i : Instr) : decode c = .ok i ↔ opField c.cw = i.opcode ∧ UsesOnly (fieldUse i.opcode) c.cw ∧
    (isBlockWriteOp i.opcode = true → (lenField c.cw).toNat ≤ 32) ∧ decodeOperands c = .ok i := by
  rw [decode_ok_iff, wordRefusal_none_iff]
  constructor
  · rintro ⟨⟨-, h2, h3⟩, h4⟩
    have ho := opcode_of_decodeOperands h4
    rw [ho] at h2 h3
    exact ⟨ho, h2, h3, h4⟩
  · rintro ⟨ho, h2, h3, h4⟩
    rw [ho]
    exact ⟨⟨opcode_ne_reserved i, h2, h3⟩, h4⟩

/-- The data taken from `WB` are as many as the length field says, and at most 32. -/
theorem blockData_length (c : Cmd) : (blockData c).length = min (lenField c.cw).toNat 32 := by simp [blockData]

end Sys2Proof
end

