-- ==== Sys2Proof/Laws/State.lean ====
section
/-! SUPPORT. What each update of the state writes and leaves, one lemma a field, so that no proof unfolds a record update. -/

namespace Sys2Proof.Machine

variable {E : Type}

/-! ### `State.refuse` -/

@[simp] theorem State.refuse_fsm (F : RefuseReason) (s : State E) : (s.refuse F).fsm = s.fsm := rfl
@[simp] theorem State.refuse_opr (F : RefuseReason) (s : State E) : (s.refuse F).opr = s.opr := rfl
@[simp] theorem State.refuse_treq (F : RefuseReason) (s : State E) : (s.refuse F).treq = s.treq := rfl
@[simp] theorem State.refuse_stage (F : RefuseReason) (s : State E) : (s.refuse F).stage = s.stage := rfl
@[simp] theorem State.refuse_rsp (F : RefuseReason) (s : State E) : (s.refuse F).rsp = s.rsp := rfl
@[simp] theorem State.refuse_fault (F : RefuseReason) (s : State E) : (s.refuse F).fault = s.fault := rfl
@[simp] theorem State.refuse_refused (F : RefuseReason) (s : State E) : (s.refuse F).refused = some F := rfl
@[simp] theorem State.refuse_cmdPort (F : RefuseReason) (s : State E) : (s.refuse F).cmdPort = none := rfl
@[simp] theorem State.refuse_withdraw (F : RefuseReason) (s : State E) : (s.refuse F).withdraw = s.withdraw := rfl
@[simp] theorem State.refuse_obs (F : RefuseReason) (s : State E) : (s.refuse F).obs = s.obs := rfl
@[simp] theorem State.refuse_treqLog (F : RefuseReason) (s : State E) : (s.refuse F).treqLog = s.treqLog := rfl
@[simp] theorem State.refuse_callerReads (F : RefuseReason) (s : State E) : (s.refuse F).callerReads = s.callerReads := rfl
@[simp] theorem State.refuse_inputs (F : RefuseReason) (s : State E) : (s.refuse F).inputs = s.inputs := rfl
@[simp] theorem State.refuse_params (F : RefuseReason) (s : State E) : (s.refuse F).params = s.params := rfl

/-! ### `State.raiseFault` -/

@[simp] theorem State.raiseFault_fsm (F : Fault) (s : State E) : (s.raiseFault F).fsm = s.fsm := rfl
@[simp] theorem State.raiseFault_opr (F : Fault) (s : State E) : (s.raiseFault F).opr = s.opr := rfl
@[simp] theorem State.raiseFault_treq (F : Fault) (s : State E) : (s.raiseFault F).treq = s.treq := rfl
@[simp] theorem State.raiseFault_stage (F : Fault) (s : State E) : (s.raiseFault F).stage = s.stage := rfl
@[simp] theorem State.raiseFault_rsp (F : Fault) (s : State E) : (s.raiseFault F).rsp = s.rsp := rfl
@[simp] theorem State.raiseFault_fault (F : Fault) (s : State E) : (s.raiseFault F).fault = some F := rfl
@[simp] theorem State.raiseFault_refused (F : Fault) (s : State E) : (s.raiseFault F).refused = s.refused := rfl
@[simp] theorem State.raiseFault_cmdPort (F : Fault) (s : State E) : (s.raiseFault F).cmdPort = s.cmdPort := rfl
@[simp] theorem State.raiseFault_withdraw (F : Fault) (s : State E) : (s.raiseFault F).withdraw = s.withdraw := rfl
@[simp] theorem State.raiseFault_obs (F : Fault) (s : State E) : (s.raiseFault F).obs = s.obs := rfl
@[simp] theorem State.raiseFault_treqLog (F : Fault) (s : State E) : (s.raiseFault F).treqLog = s.treqLog := rfl
@[simp] theorem State.raiseFault_callerReads (F : Fault) (s : State E) : (s.raiseFault F).callerReads = s.callerReads := rfl
@[simp] theorem State.raiseFault_inputs (F : Fault) (s : State E) : (s.raiseFault F).inputs = s.inputs := rfl
@[simp] theorem State.raiseFault_params (F : Fault) (s : State E) : (s.raiseFault F).params = s.params := rfl

/-! ### `State.raiseTransportError` -/

@[simp] theorem State.raiseTransportError_fsm (e : E) (s : State E) : (s.raiseTransportError e).fsm = .done := rfl
@[simp] theorem State.raiseTransportError_opr (e : E) (s : State E) : (s.raiseTransportError e).opr = s.opr := rfl
@[simp] theorem State.raiseTransportError_treq (e : E) (s : State E) : (s.raiseTransportError e).treq = none := rfl
@[simp] theorem State.raiseTransportError_stage (e : E) (s : State E) : (s.raiseTransportError e).stage = s.stage := rfl
@[simp] theorem State.raiseTransportError_rsp (e : E) (s : State E) : (s.raiseTransportError e).rsp = Rsp.error e := rfl
@[simp] theorem State.raiseTransportError_fault (e : E) (s : State E) : (s.raiseTransportError e).fault = s.fault := rfl
@[simp] theorem State.raiseTransportError_refused (e : E) (s : State E) : (s.raiseTransportError e).refused = s.refused := rfl
@[simp] theorem State.raiseTransportError_cmdPort (e : E) (s : State E) : (s.raiseTransportError e).cmdPort = s.cmdPort := rfl
@[simp] theorem State.raiseTransportError_withdraw (e : E) (s : State E) : (s.raiseTransportError e).withdraw = s.withdraw := rfl
@[simp] theorem State.raiseTransportError_obs (e : E) (s : State E) : (s.raiseTransportError e).obs = s.obs := rfl
@[simp] theorem State.raiseTransportError_treqLog (e : E) (s : State E) : (s.raiseTransportError e).treqLog = s.treqLog := rfl
@[simp] theorem State.raiseTransportError_callerReads (e : E) (s : State E) : (s.raiseTransportError e).callerReads = s.callerReads := rfl
@[simp] theorem State.raiseTransportError_inputs (e : E) (s : State E) : (s.raiseTransportError e).inputs = s.inputs := rfl
@[simp] theorem State.raiseTransportError_params (e : E) (s : State E) : (s.raiseTransportError e).params = s.params := rfl

/-! ### `State.dropInput` -/

@[simp] theorem State.dropInput_fsm (s : State E) : (s.dropInput).fsm = s.fsm := rfl
@[simp] theorem State.dropInput_opr (s : State E) : (s.dropInput).opr = s.opr := rfl
@[simp] theorem State.dropInput_treq (s : State E) : (s.dropInput).treq = s.treq := rfl
@[simp] theorem State.dropInput_stage (s : State E) : (s.dropInput).stage = s.stage := rfl
@[simp] theorem State.dropInput_rsp (s : State E) : (s.dropInput).rsp = s.rsp := rfl
@[simp] theorem State.dropInput_fault (s : State E) : (s.dropInput).fault = s.fault := rfl
@[simp] theorem State.dropInput_refused (s : State E) : (s.dropInput).refused = s.refused := rfl
@[simp] theorem State.dropInput_cmdPort (s : State E) : (s.dropInput).cmdPort = s.cmdPort := rfl
@[simp] theorem State.dropInput_withdraw (s : State E) : (s.dropInput).withdraw = s.withdraw := rfl
@[simp] theorem State.dropInput_obs (s : State E) : (s.dropInput).obs = s.obs := rfl
@[simp] theorem State.dropInput_treqLog (s : State E) : (s.dropInput).treqLog = s.treqLog := rfl
@[simp] theorem State.dropInput_callerReads (s : State E) : (s.dropInput).callerReads = s.callerReads := rfl
@[simp] theorem State.dropInput_inputs (s : State E) : (s.dropInput).inputs = s.inputs.tail := rfl
@[simp] theorem State.dropInput_params (s : State E) : (s.dropInput).params = s.params := rfl

/-! ### `State.issue` -/

@[simp] theorem State.issue_fsm (o : Opr) (q : TReq) (s : State E) : (s.issue o q).fsm = .busy := rfl
@[simp] theorem State.issue_opr (o : Opr) (q : TReq) (s : State E) : (s.issue o q).opr = o := rfl
@[simp] theorem State.issue_treq (o : Opr) (q : TReq) (s : State E) : (s.issue o q).treq = some q := rfl
@[simp] theorem State.issue_stage (o : Opr) (q : TReq) (s : State E) : (s.issue o q).stage = Cells.bottom := rfl
@[simp] theorem State.issue_rsp (o : Opr) (q : TReq) (s : State E) : (s.issue o q).rsp = Rsp.bottom := rfl
@[simp] theorem State.issue_fault (o : Opr) (q : TReq) (s : State E) : (s.issue o q).fault = s.fault := rfl
@[simp] theorem State.issue_refused (o : Opr) (q : TReq) (s : State E) : (s.issue o q).refused = s.refused := rfl
@[simp] theorem State.issue_cmdPort (o : Opr) (q : TReq) (s : State E) : (s.issue o q).cmdPort = none := rfl
@[simp] theorem State.issue_withdraw (o : Opr) (q : TReq) (s : State E) : (s.issue o q).withdraw = none := rfl
@[simp] theorem State.issue_obs (o : Opr) (q : TReq) (s : State E) : (s.issue o q).obs = s.obs := rfl
@[simp] theorem State.issue_treqLog (o : Opr) (q : TReq) (s : State E) : (s.issue o q).treqLog = s.treqLog ++ [.request q] := rfl
@[simp] theorem State.issue_callerReads (o : Opr) (q : TReq) (s : State E) : (s.issue o q).callerReads = s.callerReads := rfl
@[simp] theorem State.issue_inputs (o : Opr) (q : TReq) (s : State E) : (s.issue o q).inputs = s.inputs := rfl
@[simp] theorem State.issue_params (o : Opr) (q : TReq) (s : State E) : (s.issue o q).params = s.params := rfl

/-! ### `State.finish` -/

@[simp] theorem State.finish_fsm (r : Result E) (s : State E) : (s.finish r).fsm = .done := rfl
@[simp] theorem State.finish_opr (r : Result E) (s : State E) : (s.finish r).opr = s.opr := rfl
@[simp] theorem State.finish_treq (r : Result E) (s : State E) : (s.finish r).treq = none := rfl
@[simp] theorem State.finish_stage (r : Result E) (s : State E) : (s.finish r).stage = r.stage.getD s.stage := rfl
@[simp] theorem State.finish_rsp (r : Result E) (s : State E) : (s.finish r).rsp = r.rsp := rfl
@[simp] theorem State.finish_fault (r : Result E) (s : State E) : (s.finish r).fault = s.fault := rfl
@[simp] theorem State.finish_refused (r : Result E) (s : State E) : (s.finish r).refused = s.refused := rfl
@[simp] theorem State.finish_cmdPort (r : Result E) (s : State E) : (s.finish r).cmdPort = s.cmdPort := rfl
@[simp] theorem State.finish_withdraw (r : Result E) (s : State E) : (s.finish r).withdraw = s.withdraw := rfl
@[simp] theorem State.finish_obs (r : Result E) (s : State E) : (s.finish r).obs = s.obs := rfl
@[simp] theorem State.finish_treqLog (r : Result E) (s : State E) : (s.finish r).treqLog = s.treqLog := rfl
@[simp] theorem State.finish_callerReads (r : Result E) (s : State E) : (s.finish r).callerReads = s.callerReads := rfl
@[simp] theorem State.finish_inputs (r : Result E) (s : State E) : (s.finish r).inputs = s.inputs := rfl
@[simp] theorem State.finish_params (r : Result E) (s : State E) : (s.finish r).params = s.params := rfl

/-! ### `State.clearCommand` -/

@[simp] theorem State.clearCommand_fsm (s : State E) : (s.clearCommand).fsm = .idle := rfl
@[simp] theorem State.clearCommand_opr (s : State E) : (s.clearCommand).opr = Opr.bottom := rfl
@[simp] theorem State.clearCommand_treq (s : State E) : (s.clearCommand).treq = s.treq := rfl
@[simp] theorem State.clearCommand_stage (s : State E) : (s.clearCommand).stage = Cells.bottom := rfl
@[simp] theorem State.clearCommand_rsp (s : State E) : (s.clearCommand).rsp = Rsp.bottom := rfl
@[simp] theorem State.clearCommand_fault (s : State E) : (s.clearCommand).fault = s.fault := rfl
@[simp] theorem State.clearCommand_refused (s : State E) : (s.clearCommand).refused = s.refused := rfl
@[simp] theorem State.clearCommand_cmdPort (s : State E) : (s.clearCommand).cmdPort = s.cmdPort := rfl
@[simp] theorem State.clearCommand_withdraw (s : State E) : (s.clearCommand).withdraw = s.withdraw := rfl
@[simp] theorem State.clearCommand_obs (s : State E) : (s.clearCommand).obs = s.obs := rfl
@[simp] theorem State.clearCommand_treqLog (s : State E) : (s.clearCommand).treqLog = s.treqLog := rfl
@[simp] theorem State.clearCommand_callerReads (s : State E) : (s.clearCommand).callerReads = s.callerReads := rfl
@[simp] theorem State.clearCommand_inputs (s : State E) : (s.clearCommand).inputs = s.inputs := rfl
@[simp] theorem State.clearCommand_params (s : State E) : (s.clearCommand).params = s.params := rfl

/-! ### `State.observe` -/

@[simp] theorem State.observe_fsm (ending : CmdEnd E) (s : State E) : (s.observe ending).fsm = s.fsm := rfl
@[simp] theorem State.observe_opr (ending : CmdEnd E) (s : State E) : (s.observe ending).opr = s.opr := rfl
@[simp] theorem State.observe_treq (ending : CmdEnd E) (s : State E) : (s.observe ending).treq = s.treq := rfl
@[simp] theorem State.observe_stage (ending : CmdEnd E) (s : State E) : (s.observe ending).stage = s.stage := rfl
@[simp] theorem State.observe_rsp (ending : CmdEnd E) (s : State E) : (s.observe ending).rsp = s.rsp := rfl
@[simp] theorem State.observe_fault (ending : CmdEnd E) (s : State E) : (s.observe ending).fault = s.fault := rfl
@[simp] theorem State.observe_refused (ending : CmdEnd E) (s : State E) : (s.observe ending).refused = s.refused := rfl
@[simp] theorem State.observe_cmdPort (ending : CmdEnd E) (s : State E) : (s.observe ending).cmdPort = s.cmdPort := rfl
@[simp] theorem State.observe_withdraw (ending : CmdEnd E) (s : State E) : (s.observe ending).withdraw = s.withdraw := rfl
@[simp] theorem State.observe_obs (ending : CmdEnd E) (s : State E) : (s.observe ending).obs = s.obs ++ [⟨s.opr, ending⟩] := rfl
@[simp] theorem State.observe_treqLog (ending : CmdEnd E) (s : State E) : (s.observe ending).treqLog = s.treqLog := rfl
@[simp] theorem State.observe_callerReads (ending : CmdEnd E) (s : State E) : (s.observe ending).callerReads = s.callerReads := rfl
@[simp] theorem State.observe_inputs (ending : CmdEnd E) (s : State E) : (s.observe ending).inputs = s.inputs := rfl
@[simp] theorem State.observe_params (ending : CmdEnd E) (s : State E) : (s.observe ending).params = s.params := rfl

/-! ### `State.takeReset` -/

@[simp] theorem State.takeReset_fsm (s : State E) : (s.takeReset).fsm = .idle := rfl
@[simp] theorem State.takeReset_opr (s : State E) : (s.takeReset).opr = Opr.bottom := rfl
@[simp] theorem State.takeReset_treq (s : State E) : (s.takeReset).treq = none := rfl
@[simp] theorem State.takeReset_stage (s : State E) : (s.takeReset).stage = Cells.bottom := rfl
@[simp] theorem State.takeReset_rsp (s : State E) : (s.takeReset).rsp = Rsp.bottom := rfl
@[simp] theorem State.takeReset_fault (s : State E) : (s.takeReset).fault = none := rfl
@[simp] theorem State.takeReset_refused (s : State E) : (s.takeReset).refused = none := rfl
@[simp] theorem State.takeReset_cmdPort (s : State E) : (s.takeReset).cmdPort = none := rfl
@[simp] theorem State.takeReset_withdraw (s : State E) : (s.takeReset).withdraw = s.treq := rfl
@[simp] theorem State.takeReset_obs (s : State E) : (s.takeReset).obs = [] := rfl
@[simp] theorem State.takeReset_treqLog (s : State E) : (s.takeReset).treqLog = [] := rfl
@[simp] theorem State.takeReset_callerReads (s : State E) : (s.takeReset).callerReads = [] := rfl
@[simp] theorem State.takeReset_inputs (s : State E) : (s.takeReset).inputs = s.inputs.tail := rfl
@[simp] theorem State.takeReset_params (s : State E) : (s.takeReset).params = s.params := rfl

/-! ### `State.withCommand` -/

@[simp] theorem State.withCommand_fsm (c : Cmd) (s : State E) : (s.withCommand c).fsm = .idle := rfl
@[simp] theorem State.withCommand_opr (c : Cmd) (s : State E) : (s.withCommand c).opr = s.opr := rfl
@[simp] theorem State.withCommand_treq (c : Cmd) (s : State E) : (s.withCommand c).treq = s.treq := rfl
@[simp] theorem State.withCommand_stage (c : Cmd) (s : State E) : (s.withCommand c).stage = s.stage := rfl
@[simp] theorem State.withCommand_rsp (c : Cmd) (s : State E) : (s.withCommand c).rsp = s.rsp := rfl
@[simp] theorem State.withCommand_fault (c : Cmd) (s : State E) : (s.withCommand c).fault = none := rfl
@[simp] theorem State.withCommand_refused (c : Cmd) (s : State E) : (s.withCommand c).refused = none := rfl
@[simp] theorem State.withCommand_cmdPort (c : Cmd) (s : State E) : (s.withCommand c).cmdPort = some c := rfl
@[simp] theorem State.withCommand_withdraw (c : Cmd) (s : State E) : (s.withCommand c).withdraw = s.withdraw := rfl
@[simp] theorem State.withCommand_obs (c : Cmd) (s : State E) : (s.withCommand c).obs = s.obs := rfl
@[simp] theorem State.withCommand_treqLog (c : Cmd) (s : State E) : (s.withCommand c).treqLog = s.treqLog := rfl
@[simp] theorem State.withCommand_callerReads (c : Cmd) (s : State E) : (s.withCommand c).callerReads = s.callerReads := rfl
@[simp] theorem State.withCommand_inputs (c : Cmd) (s : State E) : (s.withCommand c).inputs = dropResets s.inputs := rfl
@[simp] theorem State.withCommand_params (c : Cmd) (s : State E) : (s.withCommand c).params = s.params := rfl

/-! ### The reset state -/

@[simp] theorem State.resetWith_fsm (p : Params) : (State.resetWith p : State E).fsm = .idle := rfl
@[simp] theorem State.resetWith_opr (p : Params) : (State.resetWith p : State E).opr = Opr.bottom := rfl
@[simp] theorem State.resetWith_treq (p : Params) : (State.resetWith p : State E).treq = none := rfl
@[simp] theorem State.resetWith_stage (p : Params) : (State.resetWith p : State E).stage = Cells.bottom := rfl
@[simp] theorem State.resetWith_rsp (p : Params) : (State.resetWith p : State E).rsp = Rsp.bottom := rfl
@[simp] theorem State.resetWith_fault (p : Params) : (State.resetWith p : State E).fault = none := rfl
@[simp] theorem State.resetWith_refused (p : Params) : (State.resetWith p : State E).refused = none := rfl
@[simp] theorem State.resetWith_cmdPort (p : Params) : (State.resetWith p : State E).cmdPort = none := rfl
@[simp] theorem State.resetWith_withdraw (p : Params) : (State.resetWith p : State E).withdraw = none := rfl
@[simp] theorem State.resetWith_obs (p : Params) : (State.resetWith p : State E).obs = [] := rfl
@[simp] theorem State.resetWith_treqLog (p : Params) : (State.resetWith p : State E).treqLog = [] := rfl
@[simp] theorem State.resetWith_callerReads (p : Params) : (State.resetWith p : State E).callerReads = [] := rfl
@[simp] theorem State.resetWith_inputs (p : Params) : (State.resetWith p : State E).inputs = [] := rfl
@[simp] theorem State.resetWith_params (p : Params) : (State.resetWith p : State E).params = p := rfl

/-! ### Marks -/

@[simp] theorem State.marked_refuse (F : RefuseReason) (s : State E) : (s.refuse F).marked = true := by
  simp [State.marked]

@[simp] theorem State.marked_raiseFault (F : Fault) (s : State E) : (s.raiseFault F).marked = true := by
  simp [State.marked]

@[simp] theorem State.marked_dropInput (s : State E) : s.dropInput.marked = s.marked := rfl

@[simp] theorem State.marked_resetWith (p : Params) : (State.resetWith p : State E).marked = false := rfl

/-- No fault and no refusal is recorded. -/
theorem State.unmarked_iff (s : State E) : s.marked = false ↔ s.fault = none ∧ s.refused = none := by
  simp [State.marked]

/-- An unmarked state records no fault. -/
theorem State.fault_of_unmarked {s : State E} (h : s.marked = false) : s.fault = none := (s.unmarked_iff.mp h).1

/-- An unmarked state records no refusal. -/
theorem State.refused_of_unmarked {s : State E} (h : s.marked = false) : s.refused = none := (s.unmarked_iff.mp h).2

end Sys2Proof.Machine
end

