-- ==== Sys2Proof/Laws/Ops.lean ====
section
/-! SUPPORT. What each move can do, once: the moves of a command, the meaning of every command as those moves, the Caller's acts
and the choice of the next move. -/

namespace Sys2Proof.Machine

variable {E : Type}

/-! ## The moves of a command -/

/-- In IDLE a command whose operands pass its check is issued (10_state R36). -/
theorem runCommand_issue {i : Instr} {q : TReq} {df : ReadData → Option (Result E)} {s : State E}
    (hm : s.marked = false) (hf : s.fsm = .idle) :
    runCommand none i q df s = .next (s.issue (latch (encode i)) q) := by
  simp [runCommand, hm, hf]

/-- In IDLE a command whose operands fail its check is refused (60_exceptions R121). -/
theorem runCommand_refuse {F : RefuseReason} {i : Instr} {q : TReq} {df : ReadData → Option (Result E)} {s : State E}
    (hm : s.marked = false) (hf : s.fsm = .idle) :
    runCommand (some F) i q df s = .next (s.refuse F) := by
  simp [runCommand, hm, hf]

/-- In BUSY the Transport's answer is decoded (10_state R37). -/
theorem runCommand_answer {check : Option RefuseReason} {i : Instr} {q asked : TReq} {df : ReadData → Option (Result E)}
    {s : State E} {r : TRsp E} {rest : List (Input E)} (hm : s.marked = false) (hf : s.fsm = .busy)
    (hq : s.treq = some asked) (hi : s.inputs = .respond r :: rest) :
    runCommand check i q df s = .next (s.dropInput.respond asked df r) := by
  simp [runCommand, hm, hf, hq, hi]

/-- A command with no move enabled waits (70 R135, R140). -/
theorem runCommand_marked {check : Option RefuseReason} {i : Instr} {q : TReq} {df : ReadData → Option (Result E)} {s : State E}
    (hm : s.marked = true) : runCommand check i q df s = .next s := by
  simp [runCommand, hm]

/-- In DONE a command waits for the Caller's Ack (70 R135). -/
theorem runCommand_done {check : Option RefuseReason} {i : Instr} {q : TReq} {df : ReadData → Option (Result E)} {s : State E}
    (hf : s.fsm = .done) : runCommand check i q df s = .next s := by
  unfold runCommand
  rw [hf]
  split <;> rfl

/-- What a move of a command can do: wait, refuse, issue its request, or decode the answer to the request outstanding. -/
theorem runCommand_cases {check : Option RefuseReason} {i : Instr} {q : TReq} {df : ReadData → Option (Result E)} {s : State E}
    {o : Host.Outcome (State E) Fault Refusal} (h : runCommand check i q df s = o) :
    o = .next s ∨
    (s.marked = false ∧ s.fsm = .idle ∧ ∃ F, check = some F ∧ o = .next (s.refuse F)) ∨
    (s.marked = false ∧ s.fsm = .idle ∧ check = none ∧ o = .next (s.issue (latch (encode i)) q)) ∨
    (s.marked = false ∧ s.fsm = .busy ∧ ∃ asked r rest, s.treq = some asked ∧ s.inputs = .respond r :: rest ∧
      o = .next (s.dropInput.respond asked df r)) := by
  subst h
  unfold runCommand
  split
  · exact .inl rfl
  rename_i hm
  replace hm : s.marked = false := by simpa using hm
  split
  · rename_i hf
    split
    · exact .inr (.inl ⟨hm, hf, _, rfl, rfl⟩)
    · exact .inr (.inr (.inl ⟨hm, hf, rfl, rfl⟩))
  · rename_i hf
    split
    · rename_i asked r hq hi
      obtain ⟨rest, hrest⟩ : ∃ rest, s.inputs = .respond r :: rest := by
        cases hs : s.inputs with
        | nil => simp [hs] at hi
        | cons x xs => simp [hs] at hi; exact ⟨xs, by rw [hi]⟩
      exact .inr (.inr (.inr ⟨hm, hf, asked, r, rest, hq, hrest, rfl⟩))
    · exact .inl rfl
  · exact .inl rfl

/-- Every meaning is the moves of its command: its check, its frame and its deframe (40 R82). -/
theorem exec_eq_runCommand (i : Instr) (s : State) :
    exec i s = runCommand (operandCheck s.params i) i (frame i) (deframe i) s := by
  cases i <;> rfl

/-- The meaning of a command for every error type, at `TransportError` (00_scope R8). -/
theorem execOf_eq_exec (i : Instr) (s : State) : execOf i s = exec i s := (exec_eq_runCommand i s).symm

/-- `exec` always answers a next state. -/
theorem exec_answers_next (i : Instr) (s : State) : ∃ t, exec i s = .next t := by
  rcases runCommand_cases (exec_eq_runCommand i s).symm with h | ⟨-, -, F, -, h⟩ | ⟨-, -, -, h⟩ | ⟨-, -, _, _, _, -, -, h⟩
  all_goals exact ⟨_, h⟩

/-! ## Respond -/

@[simp] theorem State.respond_err (q : TReq) (df : ReadData → Option (Result E)) (e : E) (s : State E) :
    s.respond q df (.err e) = s.raiseTransportError e := rfl

/-- An answer of the wrong shape is the fault `BAD_TRANSPORT_RESPONSE` (20_memory R57). -/
theorem State.respond_badShape {q : TReq} {df : ReadData → Option (Result E)} {d : ReadData} {s : State E}
    (h : shapeOK q d = false) : s.respond q df (.ok d) = s.raiseFault .badTransportResponse := by
  simp [State.respond, State.respondOk, h]

/-- An answer of the right shape is decoded by the command's deframe. -/
theorem State.respond_ok {q : TReq} {df : ReadData → Option (Result E)} {d : ReadData} {r : Result E} {s : State E}
    (h : shapeOK q d = true) (hd : df d = some r) : s.respond q df (.ok d) = s.finish r := by
  simp [State.respond, State.respondOk, h, hd]

/-- What the answer to a request can do: the error is forwarded, the answer is decoded, or a fault is recorded. -/
theorem State.respond_cases (q : TReq) (df : ReadData → Option (Result E)) (r : TRsp E) (s : State E) :
    (∃ e, r = .err e ∧ s.respond q df r = s.raiseTransportError e) ∨
    (∃ d res, r = .ok d ∧ shapeOK q d = true ∧ df d = some res ∧ s.respond q df r = s.finish res) ∨
    (∃ d, r = .ok d ∧ shapeOK q d = true ∧ df d = none ∧ s.respond q df r = s.raiseFault .unwrittenRead) ∨
    (∃ d, r = .ok d ∧ shapeOK q d = false ∧ s.respond q df r = s.raiseFault .badTransportResponse) := by
  cases r with
  | err e => exact .inl ⟨e, rfl, rfl⟩
  | ok d =>
    cases hs : shapeOK q d with
    | false => exact .inr (.inr (.inr ⟨d, rfl, hs, State.respond_badShape hs⟩))
    | true =>
      cases hd : df d with
      | none => exact .inr (.inr (.inl ⟨d, rfl, hs, hd, by simp [State.respond, State.respondOk, hs, hd]⟩))
      | some res => exact .inr (.inl ⟨d, res, rfl, hs, hd, State.respond_ok hs hd⟩)

/-! ## The Caller's acts -/

/-- Ack in DONE (10_state R38). -/
theorem State.ack_done {s : State E} (h : s.fsm = .done) : s.ack = (s.observe (.response s.rsp)).clearCommand := by
  simp [State.ack, h]

/-- Ack elsewhere is not enabled (95 2.6). -/
theorem State.ack_other {s : State E} (h : s.fsm ≠ .done) : s.ack = s := by
  unfold State.ack; split <;> simp_all

/-- Cancel in BUSY (10_state R39). -/
theorem State.cancel_busy {s : State E} (h : s.fsm = .busy) :
    s.cancel = (s.observe .cancelled).withdrawRequest.clearCommand := by
  simp [State.cancel, h]

/-- Cancel elsewhere has no effect (10_state R39). -/
theorem State.cancel_other {s : State E} (h : s.fsm ≠ .busy) : s.cancel = s := by
  unfold State.cancel; split <;> simp_all

/-- Withdrawing an outstanding request (10_state R39). -/
theorem State.withdrawRequest_some {s : State E} {q : TReq} (h : s.treq = some q) :
    s.withdrawRequest = { s with treq := none, withdraw := some q, treqLog := s.treqLog ++ [.withdrawn q] } := by
  simp [State.withdrawRequest, h]

/-- With nothing outstanding there is nothing to withdraw. -/
theorem State.withdrawRequest_none {s : State E} (h : s.treq = none) : s.withdrawRequest = s := by
  simp [State.withdrawRequest, h]

/-- Presenting on a free port. -/
theorem State.present_free {s : State E} {c : Cmd} (h : s.cmdPort = none) : s.present c = { s with cmdPort := some c } := by
  simp [State.present, h]

/-- Presenting on a port that holds a command (log 5). -/
theorem State.present_taken {s : State E} {c w : Cmd} (h : s.cmdPort = some w) : s.present c = s := by
  simp [State.present, h]

/-- Reading a field that holds a value, in DONE (70 R136). -/
theorem State.readField_value {s : State E} {f : RspField} {v : RspValue E} (hf : s.fsm = .done) (hv : s.rsp.field f = some v) :
    s.readField f = { s with callerReads := s.callerReads ++ [v] } := by
  simp [State.readField, hf, hv]

/-- Reading a field that holds `⊥` (60_exceptions R120). -/
theorem State.readField_unwritten {s : State E} {f : RspField} (hv : s.rsp.field f = none) :
    s.readField f = s.raiseFault .unwrittenRead := by
  simp [State.readField, hv]

/-- Reading outside DONE (70 R136). -/
theorem State.readField_outside {s : State E} {f : RspField} (hf : s.fsm ≠ .done) :
    s.readField f = s.raiseFault .unwrittenRead := by
  unfold State.readField; split <;> simp_all

/-! ## The next move -/

/-- Reset comes before everything else (60_exceptions R123). -/
theorem State.nextMove_reset {s : State E} {rest : List (Input E)} (h : s.inputs = .reset :: rest) :
    s.nextMove = .become s.takeReset := by
  simp [State.nextMove, h]

/-- A marked machine lets any other input pass (10_state R34). -/
theorem State.nextMove_marked {s : State E} (h : s.inputs.head? ≠ some .reset) (hm : s.marked = true) :
    s.nextMove = .become s.dropInput := by
  unfold State.nextMove; split <;> simp_all

/-- An unmarked machine makes its ordinary move. -/
theorem State.nextMove_unmarked {s : State E} (h : s.inputs.head? ≠ some .reset) (hm : s.marked = false) :
    s.nextMove = s.ordinaryMove := by
  unfold State.nextMove; split <;> simp_all

/-- A command that can be accepted is accepted (10_state R36). -/
theorem State.ordinaryMove_accept {s : State E} {c : Cmd} (hf : s.fsm = .idle) (hp : s.cmdPort = some c) :
    s.ordinaryMove = s.acceptMove c := by
  simp [State.ordinaryMove, State.acceptable, hf, hp]

/-- With nothing to accept, an answer takes its turn. -/
theorem State.ordinaryMove_answer {s : State E} {r : TRsp E} {rest : List (Input E)} (hp : s.acceptable = none)
    (hi : s.inputs = .respond r :: rest) : s.ordinaryMove = s.answerMove := by
  simp [State.ordinaryMove, hp, hi]

/-- With nothing to accept, an act of the Caller takes its turn. -/
theorem State.ordinaryMove_input {s : State E} {inp : Input E} {rest : List (Input E)} (hp : s.acceptable = none)
    (hi : s.inputs = inp :: rest) (hr : ∀ r, inp ≠ .respond r) : s.ordinaryMove = .become (s.takeInput inp) := by
  cases inp <;> simp_all [State.ordinaryMove]

/-- With nothing to accept and no input the machine waits. -/
theorem State.ordinaryMove_wait {s : State E} (hp : s.acceptable = none) (hi : s.inputs = []) :
    s.ordinaryMove = .become s := by
  simp [State.ordinaryMove, hp, hi]

/-- No command can be accepted outside IDLE (70 R135). -/
theorem State.acceptable_of_not_idle {s : State E} (h : s.fsm ≠ .idle) : s.acceptable = none := by
  unfold State.acceptable; split <;> simp_all

/-- No command can be accepted when none is presented. -/
theorem State.acceptable_of_port_free {s : State E} (h : s.cmdPort = none) : s.acceptable = none := by
  unfold State.acceptable; split <;> simp_all

/-- The command that can be accepted stands on the port, and the block is IDLE. -/
theorem State.acceptable_some {s : State E} {c : Cmd} (h : s.acceptable = some c) : s.fsm = .idle ∧ s.cmdPort = some c := by
  unfold State.acceptable at h; split at h <;> simp_all

/-- A step that runs a command. -/
theorem step_run {s : State} {i : Instr} (h : s.nextMove = .run i) : step s = exec i s := by
  simp [step, h]

/-- A step that is an act of the Caller, or none. -/
theorem step_become {s t : State} (h : s.nextMove = .become t) : step s = .next t := by
  simp [step, h]

/-- A step that runs a command, for every error type. -/
theorem stepOf_run {s : State E} {i : Instr} (h : s.nextMove = .run i) : stepOf s = execOf i s := by
  simp [stepOf, h]

/-- A step that is an act of the Caller, or none, for every error type. -/
theorem stepOf_become {s t : State E} (h : s.nextMove = .become t) : stepOf s = .next t := by
  simp [stepOf, h]

/-- Every step answers a next state (log 8). -/
theorem step_answers_next (s : State) : ∃ t, step s = .next t := by
  cases h : s.nextMove with
  | run i => rw [step_run h]; exact exec_answers_next i s
  | become t => exact ⟨t, step_become h⟩

/-- What a step can do. `exec` is opened by `runCommand_cases`, an answer by `State.respond_cases`. -/
theorem step_cases {s : State} {o : Host.Outcome State Fault Refusal} (h : step s = o) :
    (∃ rest, s.inputs = .reset :: rest ∧ o = .next s.takeReset) ∨
    (s.marked = true ∧ o = .next s.dropInput) ∨
    (s.marked = false ∧ ∃ c i, s.acceptable = some c ∧ decode c = .ok i ∧ o = exec i s) ∨
    (s.marked = false ∧ ∃ c F, s.acceptable = some c ∧ decode c = .error F ∧ o = .next (s.refuse F)) ∨
    (s.marked = false ∧ s.acceptable = none ∧ s.inputs = [] ∧ o = .next s) ∨
    (s.marked = false ∧ s.acceptable = none ∧ ∃ r rest q i, s.inputs = .respond r :: rest ∧ s.fsm = .busy ∧
      s.treq = some q ∧ s.opr.command = some i ∧ o = exec i s) ∨
    (s.marked = false ∧ s.acceptable = none ∧ ∃ r rest q, s.inputs = .respond r :: rest ∧ s.fsm = .busy ∧
      s.treq = some q ∧ s.opr.command = none ∧ o = .next (s.dropInput.raiseFault .unwrittenRead)) ∨
    (s.marked = false ∧ s.acceptable = none ∧ ∃ r rest, s.inputs = .respond r :: rest ∧
      (s.fsm ≠ .busy ∨ s.treq = none) ∧ o = .next s.dropInput) ∨
    (s.marked = false ∧ s.acceptable = none ∧ ∃ inp rest, s.inputs = inp :: rest ∧ inp ≠ .reset ∧
      (∀ r, inp ≠ .respond r) ∧ o = .next (s.takeInput inp)) := by
  subst h
  by_cases hr : s.inputs.head? = some .reset
  · cases hi : s.inputs with
    | nil => simp [hi] at hr
    | cons x rest =>
      simp [hi] at hr
      subst hr
      exact .inl ⟨rest, rfl, step_become (State.nextMove_reset hi)⟩
  refine .inr ?_
  cases hm : s.marked with
  | true => exact .inl ⟨rfl, step_become (State.nextMove_marked hr hm)⟩
  | false =>
    refine .inr ?_
    have hn := State.nextMove_unmarked hr hm
    cases ha : s.acceptable with
    | some c =>
      obtain ⟨hf, hp⟩ := State.acceptable_some ha
      rw [State.ordinaryMove_accept hf hp] at hn
      cases hd : decode c with
      | ok i => exact .inl ⟨rfl, c, i, rfl, hd, step_run (by rw [hn]; simp [State.acceptMove, hd])⟩
      | error F => exact .inr (.inl ⟨rfl, c, F, rfl, hd, step_become (by rw [hn]; simp [State.acceptMove, hd])⟩)
    | none =>
      refine .inr (.inr ?_)
      cases hi : s.inputs with
      | nil => exact .inl ⟨rfl, rfl, rfl, step_become (by rw [hn, State.ordinaryMove_wait ha hi])⟩
      | cons inp rest =>
        refine .inr ?_
        by_cases hresp : ∃ r, inp = .respond r
        · obtain ⟨r, rfl⟩ := hresp
          rw [State.ordinaryMove_answer ha hi] at hn
          by_cases hb : s.fsm = .busy
          · cases hq : s.treq with
            | none =>
              exact .inr (.inr (.inl ⟨rfl, rfl, r, rest, rfl, .inr rfl,
                step_become (by rw [hn]; simp [State.answerMove, hb, hq])⟩))
            | some q =>
              cases hc : s.opr.command with
              | some i =>
                exact .inl ⟨rfl, rfl, r, rest, q, i, rfl, hb, rfl, rfl,
                  step_run (by rw [hn]; simp [State.answerMove, hb, hq, hc])⟩
              | none =>
                exact .inr (.inl ⟨rfl, rfl, r, rest, q, rfl, hb, rfl, rfl,
                  step_become (by rw [hn]; simp [State.answerMove, hb, hq, hc])⟩)
          · refine .inr (.inr (.inl ⟨rfl, rfl, r, rest, rfl, .inl hb, step_become ?_⟩))
            rw [hn]
            unfold State.answerMove
            split <;> simp_all
        · refine .inr (.inr (.inr ⟨rfl, rfl, inp, rest, rfl, ?_, ?_, step_become ?_⟩))
          · intro h; simp [hi, h] at hr
          · intro r h; exact hresp ⟨r, h⟩
          · rw [hn, State.ordinaryMove_input ha hi fun r h => hresp ⟨r, h⟩]

/-! ## The meanings in the terms of claims -/

/-- An unmarked state is one with no mark, as a Bool. -/
theorem State.Unmarked.marked {s : State} (h : s.Unmarked) : s.marked = false := s.unmarked_iff.mpr h

/-- In IDLE, with no mark, a command whose operands pass is issued. -/
theorem exec_issue {i : Instr} {s : State} (hf : s.fsm = .idle) (hm : s.Unmarked) (hc : operandCheck s.params i = none) :
    exec i s = .next (s.issue (latch (encode i)) (frame i)) := by
  rw [exec_eq_runCommand, hc]
  exact runCommand_issue hm.marked hf

/-- In IDLE, with no mark, a command whose operands fail is refused. -/
theorem exec_refuse {i : Instr} {F : RefuseReason} {s : State} (hf : s.fsm = .idle) (hm : s.Unmarked)
    (hc : operandCheck s.params i = some F) : exec i s = .next (s.refuse F) := by
  rw [exec_eq_runCommand, hc]
  exact runCommand_refuse hm.marked hf

/-- At an answer every command responds to the request outstanding. -/
theorem exec_answer {i : Instr} {s : State} {q : TReq} {r : TRsp} {rest : List Input} (h : s.Answered q r rest) :
    exec i s = .next (s.dropInput.respond q (deframe i) r) := by
  rw [exec_eq_runCommand, runCommand_answer h.2.1.marked h.1 h.2.2.1 h.2.2.2]

end Sys2Proof.Machine
end

