-- ==== Sys2Proof/Laws/Results.lean ====
section
/-! SUPPORT. What a successful answer makes of each kind of command: when a result exists, its shape, and when `STAGE` is written. -/

namespace Sys2Proof.Machine

variable {E : Type}

/-- A result with no result field has the shape of its kind. -/
theorem Rsp.okNone_shaped : (Rsp.okNone : Rsp E).Shaped where
  stat := rfl
  err := by simp [Rsp.okNone, Rsp.okOf, Rsp.bottom, statOK, statErr]
  kind := by simp [Rsp.okNone, Rsp.okOf]
  byte := by simp [Rsp.okNone, Rsp.okOf, Rsp.bottom]
  word := by simp [Rsp.okNone, Rsp.okOf, Rsp.bottom]
  len := by simp [Rsp.okNone, Rsp.okOf, Rsp.bottom]
  pt := by simp [Rsp.okNone, Rsp.okOf, Rsp.bottom]
  lenRange := by simp [Rsp.okNone, Rsp.okOf, Rsp.bottom]
  buf := by simp [Rsp.okNone, Rsp.okOf, Rsp.bottom]

/-- A byte result has the shape of its kind. -/
theorem Rsp.okByte_shaped (b : Byte) : (Rsp.okByte b : Rsp E).Shaped where
  stat := rfl
  err := by simp [Rsp.okByte, Rsp.okOf, Rsp.bottom, statOK, statErr]
  kind := by simp [Rsp.okByte, Rsp.okOf]
  byte := by simp [Rsp.okByte, Rsp.okOf]
  word := by simp [Rsp.okByte, Rsp.okOf, Rsp.bottom]
  len := by simp [Rsp.okByte, Rsp.okOf, Rsp.bottom]
  pt := by simp [Rsp.okByte, Rsp.okOf, Rsp.bottom]
  lenRange := by simp [Rsp.okByte, Rsp.okOf, Rsp.bottom]
  buf := by simp [Rsp.okByte, Rsp.okOf, Rsp.bottom]

/-- A word result has the shape of its kind. -/
theorem Rsp.okWord_shaped (w : Word) : (Rsp.okWord w : Rsp E).Shaped where
  stat := rfl
  err := by simp [Rsp.okWord, Rsp.okOf, Rsp.bottom, statOK, statErr]
  kind := by simp [Rsp.okWord, Rsp.okOf]
  byte := by simp [Rsp.okWord, Rsp.okOf, Rsp.bottom]
  word := by simp [Rsp.okWord, Rsp.okOf]
  len := by simp [Rsp.okWord, Rsp.okOf, Rsp.bottom]
  pt := by simp [Rsp.okWord, Rsp.okOf, Rsp.bottom]
  lenRange := by simp [Rsp.okWord, Rsp.okOf, Rsp.bottom]
  buf := by simp [Rsp.okWord, Rsp.okOf, Rsp.bottom]

/-- A passthrough result has the shape of its kind. -/
theorem Rsp.okPT_shaped (d : ReadData) : (Rsp.okPT d : Rsp E).Shaped where
  stat := rfl
  err := by simp [Rsp.okPT, Rsp.okOf, Rsp.bottom, statOK, statErr]
  kind := by simp [Rsp.okPT, Rsp.okOf]
  byte := by simp [Rsp.okPT, Rsp.okOf, Rsp.bottom]
  word := by simp [Rsp.okPT, Rsp.okOf, Rsp.bottom]
  len := by simp [Rsp.okPT, Rsp.okOf, Rsp.bottom]
  pt := by simp [Rsp.okPT, Rsp.okOf]
  lenRange := by simp [Rsp.okPT, Rsp.okOf, Rsp.bottom]
  buf := by simp [Rsp.okPT, Rsp.okOf, Rsp.bottom]

/-- An error has the shape of an error (10_state R31). -/
theorem Rsp.error_shaped (e : E) : (Rsp.error e).Shaped where
  stat := rfl
  err := by simp [Rsp.error]
  kind := by simp [Rsp.error, Rsp.bottom, statOK, statErr]
  byte := by simp [Rsp.error, Rsp.bottom]
  word := by simp [Rsp.error, Rsp.bottom]
  len := by simp [Rsp.error, Rsp.bottom]
  pt := by simp [Rsp.error, Rsp.bottom]
  lenRange := by simp [Rsp.error, Rsp.bottom]
  buf := by simp [Rsp.error, Rsp.bottom]

/-- The length field of a block result is the effective length. -/
theorem effectiveLength_toNat (n : Byte) : (BitVec.ofNat 6 (effectiveLength n)).toNat = effectiveLength n := by
  have h := effectiveLength_bounds n
  rw [BitVec.toNat_ofNat]
  exact Nat.mod_eq_of_lt (by omega)

/-- A block result cut from full cells has the shape of its kind. -/
theorem Rsp.okBlock_shaped (n : Byte) (cells : Cells) (h : ∀ i : Fin 32, (cells[i.val]).isSome) :
    (Rsp.okBlock (effectiveLength n) (cellsTake (effectiveLength n) cells) : Rsp E).Shaped where
  stat := rfl
  err := by simp [Rsp.okBlock, Rsp.okOf, Rsp.bottom, statOK, statErr]
  kind := by simp [Rsp.okBlock, Rsp.okOf]
  byte := by simp [Rsp.okBlock, Rsp.okOf, Rsp.bottom]
  word := by simp [Rsp.okBlock, Rsp.okOf, Rsp.bottom]
  len := by simp [Rsp.okBlock, Rsp.okOf]
  pt := by simp [Rsp.okBlock, Rsp.okOf, Rsp.bottom]
  lenRange := by
    intro m hm
    have hm' : BitVec.ofNat 6 (effectiveLength n) = m := Option.some.inj hm
    rw [← hm', effectiveLength_toNat]
    exact effectiveLength_bounds n
  buf := by
    intro i
    have hc : ((cellsTake (effectiveLength n) cells)[i.val]).isSome ↔ i.val < effectiveLength n := by
      rw [cellsTake_cell]
      split
      · exact ⟨fun _ => by assumption, fun _ => h i⟩
      · simp; omega
    refine hc.trans ⟨fun hi => ⟨_, rfl, by rw [effectiveLength_toNat]; exact hi⟩, ?_⟩
    rintro ⟨m, hm, hi⟩
    have hm' : BitVec.ofNat 6 (effectiveLength n) = m := Option.some.inj hm
    rwa [← hm', effectiveLength_toNat] at hi

/-- A single part of `n` bytes is the answer's shape for one read of `n` bytes. -/
theorem single_part {d : ReadData} {n : Nat} (h : d.map List.length = [n]) : ∃ part : List Byte, part.length = n ∧ d = [part] := by
  match d, h with
  | [part], h => exact ⟨part, by simpa using h, rfl⟩

/-- An answer of the right shape has the request's lengths. -/
theorem shapeOK_iff (q : TReq) (d : ReadData) : shapeOK q d = true ↔ d.map List.length = readShape q := by
  simp [shapeOK]

/-- A byte is decoded from one part of one byte. -/
theorem deframeByte_single (b : Byte) :
    (deframeByte [[b]] : Option (Result E)) = some (Result.plain (Rsp.okByte b)) := rfl

/-- A word is decoded from one part of two bytes. -/
theorem deframeWord_single (b0 b1 : Byte) :
    (deframeWord [[b0, b1]] : Option (Result E)) = some (Result.plain (Rsp.okWord (le16 b0 b1))) := rfl

/-- A block is decoded from one part of 32 bytes (41 R99, R100). -/
theorem deframeBlock_single (n : Byte) (bs : List Byte) :
    (deframeBlock [n :: bs] : Option (Result E)) = some ⟨Rsp.okBlock (effectiveLength n) (cellsTake (effectiveLength n) (stageFill [n :: bs])),
      some (stageFill [n :: bs])⟩ := by
  have h0 : (stageFill [n :: bs])[0] = some n := by simp
  unfold deframeBlock blockDecode
  rw [h0]

/-- The staging buffer is filled whole by 32 bytes. -/
theorem stageFill_whole (part : List Byte) (h : part.length = 32) (i : Fin 32) : ((stageFill [part])[i.val]).isSome := by
  rw [stageFill_cell, byteAt_single, List.getElem?_eq_getElem (by omega)]
  rfl

/-- What a successful answer of the right shape makes of a command: a result of the shape of its kind, and `STAGE` written whole,
by a block read alone (40 R86; 41 R99). -/
theorem deframe_of_shape (i : Instr) (d : ReadData) (h : shapeOK (frame i) d = true) :
    ∃ res : Result E, deframe i d = some res ∧ res.rsp.Shaped ∧ res.rsp.rstat = some statOK ∧
      (res.stage = none ∨ (∃ cells, res.stage = some cells ∧ ∀ k : Fin 32, (cells[k.val]).isSome)) ∧
      (res.stage ≠ none → (∃ addr reg, i = .blockRead addr reg) ∨ ∃ addr reg data, i = .blockProcCall addr reg data) := by
  rw [shapeOK_iff] at h
  cases i with
  | quick addr flag => exact ⟨_, rfl, Rsp.okNone_shaped, rfl, .inl rfl, fun hs => absurd rfl hs⟩
  | sendByte addr byte => exact ⟨_, rfl, Rsp.okNone_shaped, rfl, .inl rfl, fun hs => absurd rfl hs⟩
  | writeByte addr reg byte => exact ⟨_, rfl, Rsp.okNone_shaped, rfl, .inl rfl, fun hs => absurd rfl hs⟩
  | writeWord addr reg word => exact ⟨_, rfl, Rsp.okNone_shaped, rfl, .inl rfl, fun hs => absurd rfl hs⟩
  | blockWrite addr reg data => exact ⟨_, rfl, Rsp.okNone_shaped, rfl, .inl rfl, fun hs => absurd rfl hs⟩
  | i2cRead addr n => exact ⟨_, rfl, Rsp.okPT_shaped d, rfl, .inl rfl, fun hs => absurd rfl hs⟩
  | i2cWrite addr bs => exact ⟨_, rfl, Rsp.okPT_shaped d, rfl, .inl rfl, fun hs => absurd rfl hs⟩
  | i2cWriteRead addr bs n => exact ⟨_, rfl, Rsp.okPT_shaped d, rfl, .inl rfl, fun hs => absurd rfl hs⟩
  | i2cTxn addr segs => exact ⟨_, rfl, Rsp.okPT_shaped d, rfl, .inl rfl, fun hs => absurd rfl hs⟩
  | recvByte addr =>
    obtain ⟨part, hl, rfl⟩ := single_part (n := 1) h
    obtain ⟨b, rfl⟩ := List.length_eq_one_iff.mp hl
    exact ⟨_, deframeByte_single b, Rsp.okByte_shaped b, rfl, .inl rfl, fun hs => absurd rfl hs⟩
  | readByte addr reg =>
    obtain ⟨part, hl, rfl⟩ := single_part (n := 1) h
    obtain ⟨b, rfl⟩ := List.length_eq_one_iff.mp hl
    exact ⟨_, deframeByte_single b, Rsp.okByte_shaped b, rfl, .inl rfl, fun hs => absurd rfl hs⟩
  | readWord addr reg =>
    obtain ⟨part, hl, rfl⟩ := single_part (n := 2) h
    obtain ⟨b0, b1, rfl⟩ := List.length_eq_two.mp hl
    exact ⟨_, deframeWord_single b0 b1, Rsp.okWord_shaped _, rfl, .inl rfl, fun hs => absurd rfl hs⟩
  | procCall addr reg word =>
    obtain ⟨part, hl, rfl⟩ := single_part (n := 2) h
    obtain ⟨b0, b1, rfl⟩ := List.length_eq_two.mp hl
    exact ⟨_, deframeWord_single b0 b1, Rsp.okWord_shaped _, rfl, .inl rfl, fun hs => absurd rfl hs⟩
  | blockRead addr reg =>
    obtain ⟨part, hl, rfl⟩ := single_part (n := 32) h
    cases part with
    | nil => simp at hl
    | cons n bs =>
      have hw := stageFill_whole _ hl
      exact ⟨_, deframeBlock_single (E := E) n bs, Rsp.okBlock_shaped (E := E) n _ hw, rfl, .inr ⟨_, rfl, hw⟩, fun _ => .inl ⟨addr, reg, rfl⟩⟩
  | blockProcCall addr reg data =>
    obtain ⟨part, hl, rfl⟩ := single_part (n := 32) h
    cases part with
    | nil => simp at hl
    | cons n bs =>
      have hw := stageFill_whole _ hl
      exact ⟨_, deframeBlock_single (E := E) n bs, Rsp.okBlock_shaped (E := E) n _ hw, rfl, .inr ⟨_, rfl, hw⟩,
        fun _ => .inr ⟨addr, reg, data, rfl⟩⟩

end Sys2Proof.Machine
end

