-- ==== Sys2Proof/Laws/Commands.lean ====
section
/-! SUPPORT. One lemma for each thing a command does, in the terms of claims: its check, its request, its refusal, its answer and its
exceptions, each from the command's own frame, deframe and check; and the shapes of answers. -/

namespace Sys2Proof.Machine

/-- The check of a command's operands passes exactly for the well-formed commands (30_encoding R75). -/
theorem operandCheck_none_iff {p : Params} {i : Instr} : operandCheck p i = none ↔ i.wf p = true := by
  cases i <;>
    simp [operandCheck, Instr.wf, Instr.encodable, Instr.data, Instr.desc, blockCheck, sizeCheck, blockDataFits] <;>
    exact decide_eq_true_iff.symm

/-- A command whose check passes within the limits is issued there. -/
theorem issuesWithin_of {i : Instr} {q : TReq} {within : Params → Prop} (hq : ∀ p, within p → frame i = q)
    (hc : ∀ p, within p → operandCheck p i = none) : IssuesWithin within i q := by
  intro s hf hm hw
  exact ⟨none, by rw [exec_issue hf hm (hc _ hw), hq _ hw]; rfl⟩

/-- A command whose check fails beyond the limits is refused there. -/
theorem refusesBeyond_of {i : Instr} {within : Params → Prop} {F : RefuseReason}
    (hc : ∀ p, ¬within p → operandCheck p i = some F) : RefusesBeyond within F i := by
  intro s hf hm hw
  exact ⟨none, by rw [exec_refuse hf hm (hc _ hw)]; rfl⟩

/-- A command whose deframe leaves `STAGE` alone answers so. -/
theorem answersWith_of {i : Instr} {q : TReq} {d : ReadData} {rsp : Rsp} (hs : shapeOK q d = true)
    (hd : deframe i d = some (Result.plain rsp)) : AnswersWith i q d rsp := by
  intro s rest h
  rw [exec_answer h, State.respond_ok hs hd]
  simp [State.finish, Result.plain, State.dropInput, h.2.2.2]

/-- A command whose deframe fills `STAGE` answers so. -/
theorem answersStaged_of {i : Instr} {q : TReq} {d : ReadData} {rsp : Rsp} {stage : Cells} (hs : shapeOK q d = true)
    (hd : deframe i d = some ⟨rsp, some stage⟩) : AnswersStaged i q d rsp stage := by
  intro s rest h
  rw [exec_answer h, State.respond_ok hs hd]
  simp [State.finish, State.dropInput, h.2.2.2]

/-- Every command takes the same exceptions (40 R85). -/
theorem takesExceptions (i : Instr) (q : TReq) : TakesExceptions i q := by
  constructor
  · intro s rest e h
    rw [exec_answer h, State.respond_err]
    simp [State.raiseTransportError, State.dropInput, h.2.2.2, Rsp.error, statErr]
  · intro s rest d h hs
    refine ⟨rest, ?_⟩
    rw [exec_answer h, State.respond_badShape hs]
    simp [State.raiseFault, State.dropInput, h.2.2.2]

/-! ## Shapes of answers -/

/-- One read part of `n` bytes. -/
theorem shape_single_iff (d : ReadData) (n : Nat) :
    d.map List.length = [n] ↔ ∃ part : List Byte, part.length = n ∧ d = [part] := by
  constructor
  · exact single_part
  · rintro ⟨part, rfl, rfl⟩; rfl

/-- The read shape of a list of segments, as a filter. -/
theorem segReadShape_eq (segs : List Seg) :
    segReadShape segs = segs.filterMap fun | .read n => some n | .write _ => none := by
  induction segs with
  | nil => rfl
  | cons seg segs ih => cases seg <;> simp [segReadShape, ih]

/-! ## Words and lengths -/

/-- `le16` by its value. -/
theorem le16_eq_ofNat (b0 b1 : Byte) : le16 b0 b1 = BitVec.ofNat 16 (256 * b1.toNat + b0.toNat) := by
  have h0 := b0.isLt
  have h1 := b1.isLt
  apply BitVec.eq_of_toNat_eq
  rw [le16_toNat, BitVec.toNat_ofNat]
  omega

/-- The bytes of a word from its value. -/
theorem bytes_of_word {lo hi : Byte} {w : Word} (h : w.toNat = 256 * hi.toNat + lo.toNat) : loByte w = lo ∧ hiByte w = hi := by
  have := lo.isLt
  constructor <;> apply BitVec.eq_of_toNat_eq
  · rw [loByte_toNat]; omega
  · rw [hiByte_toNat]; omega

/-- The length prefix as a byte of the number of data bytes. -/
theorem lengthByte_eq_ofNat (data : List Byte) (h : data.length ≤ 32) : lengthByte data = BitVec.ofNat 8 data.length := by
  apply BitVec.eq_of_toNat_eq
  rw [lengthByte_toNat _ h, BitVec.toNat_ofNat]
  omega

end Sys2Proof.Machine
end

