-- ==== Sys2Proof/Laws/PerInstr.lean ====
section
/-! SUPPORT. Laws made per instruction: the fields of every command's word (30_encoding R68, R69, R70). -/

namespace Sys2Proof.Laws.WordFields

/-- The word of a command holds the command's opcode, zero reserved bits, and zero in every field the command does not use. -/
def Statement (i : Instr) : Prop :=
  opField (encodeWord i) = i.opcode ∧ reservedLow (encodeWord i) = 0 ∧ reservedHigh (encodeWord i) = 0 ∧
    unusedFieldSet (encodeWord i) = false

theorem quick (addr : Byte) (flag : Bool) : Statement (.quick addr flag) := by
  simp [Statement, encodeWord, Instr.opcode, unusedFieldSet, fieldUse]
theorem recvByte (addr : Byte) : Statement (.recvByte addr) := by
  simp [Statement, encodeWord, Instr.opcode, unusedFieldSet, fieldUse]
theorem sendByte (addr byte : Byte) : Statement (.sendByte addr byte) := by
  simp [Statement, encodeWord, Instr.opcode, unusedFieldSet, fieldUse]
theorem readByte (addr reg : Byte) : Statement (.readByte addr reg) := by
  simp [Statement, encodeWord, Instr.opcode, unusedFieldSet, fieldUse]
theorem readWord (addr reg : Byte) : Statement (.readWord addr reg) := by
  simp [Statement, encodeWord, Instr.opcode, unusedFieldSet, fieldUse]
theorem writeByte (addr reg byte : Byte) : Statement (.writeByte addr reg byte) := by
  simp [Statement, encodeWord, Instr.opcode, unusedFieldSet, fieldUse]
theorem writeWord (addr reg : Byte) (word : Word) : Statement (.writeWord addr reg word) := by
  simp [Statement, encodeWord, Instr.opcode, unusedFieldSet, fieldUse]
theorem procCall (addr reg : Byte) (word : Word) : Statement (.procCall addr reg word) := by
  simp [Statement, encodeWord, Instr.opcode, unusedFieldSet, fieldUse]
theorem blockRead (addr reg : Byte) : Statement (.blockRead addr reg) := by
  simp [Statement, encodeWord, Instr.opcode, unusedFieldSet, fieldUse]
theorem blockWrite (addr reg : Byte) (data : List Byte) : Statement (.blockWrite addr reg data) := by
  simp [Statement, encodeWord, Instr.opcode, unusedFieldSet, fieldUse]
theorem blockProcCall (addr reg : Byte) (data : List Byte) : Statement (.blockProcCall addr reg data) := by
  simp [Statement, encodeWord, Instr.opcode, unusedFieldSet, fieldUse]
theorem i2cRead (addr : Byte) (n : Nat) : Statement (.i2cRead addr n) := by
  simp [Statement, encodeWord, Instr.opcode, unusedFieldSet, fieldUse]
theorem i2cWrite (addr : Byte) (bs : List Byte) : Statement (.i2cWrite addr bs) := by
  simp [Statement, encodeWord, Instr.opcode, unusedFieldSet, fieldUse]
theorem i2cWriteRead (addr : Byte) (bs : List Byte) (n : Nat) : Statement (.i2cWriteRead addr bs n) := by
  simp [Statement, encodeWord, Instr.opcode, unusedFieldSet, fieldUse]
theorem i2cTxn (addr : Byte) (segs : List Seg) : Statement (.i2cTxn addr segs) := by
  simp [Statement, encodeWord, Instr.opcode, unusedFieldSet, fieldUse]

end Sys2Proof.Laws.WordFields
end

