-- ==== Sys2Proof/Laws/Step.lean ====
section
/-! SUPPORT. The step, whole: every state a step can lead to, each with what it takes to get there, so that a claim about every step
is one case analysis. -/

namespace Sys2Proof.Machine

/-- The step at a presented command: the command decoded runs, or the word is refused (10_state R36). -/
theorem step_accept {s : State} {c : Cmd} (hf : s.fsm = .idle) (hm : s.Unmarked) (hr : s.inputs.head? ≠ some .reset)
    (hp : s.cmdPort = some c) :
    step s = match decode c with
      | .ok i => exec i s
      | .error F => .next (s.refuse F) := by
  have hn := State.nextMove_unmarked hr hm.marked
  rw [State.ordinaryMove_accept hf hp] at hn
  cases hd : decode c with
  | ok i => exact step_run (by rw [hn]; simp [State.acceptMove, hd])
  | error F => exact step_become (by rw [hn]; simp [State.acceptMove, hd])

/-- The step at an act of the Caller that is not an answer, where no command can be accepted. -/
theorem step_input {s : State} {inp : Input} {rest : List Input} (ha : s.acceptable = none) (hm : s.Unmarked)
    (hi : s.inputs = inp :: rest) (hr : inp ≠ .reset) (hn : ∀ r, inp ≠ .respond r) :
    step s = .next (s.takeInput inp) := by
  have h : s.inputs.head? ≠ some .reset := by simp [hi, hr]
  exact step_become (by rw [State.nextMove_unmarked h hm.marked, State.ordinaryMove_input ha hi hn])

/-- What a step from `s` can do, one constructor each. -/
inductive State.Effect (s : State) : State → Prop where
  | reset {rest : List Input} : s.inputs = .reset :: rest → s.Effect s.takeReset
  | passed : s.marked = true → s.Effect s.dropInput
  | waited : s.Unmarked → s.acceptable = none → s.inputs = [] → s.Effect s
  | issued {c : Cmd} {i : Instr} : s.Unmarked → s.fsm = .idle → s.cmdPort = some c → decode c = .ok i →
      operandCheck s.params i = none → s.Effect (s.issue (latch (encode i)) (frame i))
  | refused {c : Cmd} {F : RefuseReason} : s.Unmarked → s.fsm = .idle → s.cmdPort = some c →
      (decode c = .error F ∨ ∃ i, decode c = .ok i ∧ operandCheck s.params i = some F) → s.Effect (s.refuse F)
  | failed {q : TReq} {e : TransportError} {rest : List Input} : s.Answered q (.err e) rest →
      s.Effect (s.dropInput.raiseTransportError e)
  | finished {q : TReq} {d : ReadData} {rest : List Input} {i : Instr} {res : Result} : s.Answered q (.ok d) rest →
      s.opr.command = some i → shapeOK q d = true → deframe i d = some res → s.Effect (s.dropInput.finish res)
  | misshapen {q : TReq} {d : ReadData} {rest : List Input} : s.Answered q (.ok d) rest → shapeOK q d = false →
      s.Effect (s.dropInput.raiseFault .badTransportResponse)
  | undecodable {q : TReq} {d : ReadData} {rest : List Input} {i : Instr} : s.Answered q (.ok d) rest →
      s.opr.command = some i → shapeOK q d = true → deframe i d = none → s.Effect (s.dropInput.raiseFault .unwrittenRead)
  | unlatched {q : TReq} {r : TRsp} {rest : List Input} : s.Answered q r rest → s.opr.command = none →
      s.Effect (s.dropInput.raiseFault .unwrittenRead)
  | unasked {r : TRsp} {rest : List Input} : s.Unmarked → s.inputs = .respond r :: rest → s.fsm ≠ .busy ∨ s.treq = none →
      s.Effect s.dropInput
  | presented {c : Cmd} {rest : List Input} : s.Unmarked → s.inputs = .present c :: rest → s.cmdPort = none →
      s.Effect { s.dropInput with cmdPort := some c }
  | delivered {rest : List Input} : s.Unmarked → s.inputs = .ack :: rest → s.fsm = .done →
      s.Effect (s.dropInput.observe (.response s.rsp)).clearCommand
  | cancelled {rest : List Input} : s.Unmarked → s.inputs = .cancel :: rest → s.fsm = .busy →
      s.Effect (s.dropInput.observe .cancelled).withdrawRequest.clearCommand
  | read {f : RspField} {rest : List Input} {v : RspValue} : s.Unmarked → s.inputs = .read f :: rest → s.fsm = .done →
      s.rsp.field f = some v → s.Effect { s.dropInput with callerReads := s.callerReads ++ [v] }
  | misread {f : RspField} {rest : List Input} : s.Unmarked → s.inputs = .read f :: rest →
      s.fsm ≠ .done ∨ s.rsp.field f = none → s.Effect (s.dropInput.raiseFault .unwrittenRead)
  | noEffect {inp : Input} {rest : List Input} : s.Unmarked → s.inputs = inp :: rest → inp ≠ .reset → s.Effect s.dropInput

/-- The effect of an input that is neither an answer nor Reset. -/
theorem State.takeInput_effect {s : State} {inp : Input} {rest : List Input} (hm : s.Unmarked) (hi : s.inputs = inp :: rest)
    (hr : inp ≠ .reset) (hn : ∀ r, inp ≠ .respond r) : s.Effect (s.takeInput inp) := by
  cases inp with
  | respond r => exact absurd rfl (hn r)
  | reset => exact absurd rfl hr
  | present c =>
    cases hp : s.cmdPort with
    | none =>
      have h : s.takeInput (.present c) = { s.dropInput with cmdPort := some c } := State.present_free hp
      rw [h]; exact .presented hm hi hp
    | some w =>
      have h : s.takeInput (.present c) = s.dropInput := State.present_taken (w := w) hp
      rw [h]; exact .noEffect hm hi hr
  | ack =>
    by_cases hf : s.fsm = .done
    · have h : s.takeInput .ack = (s.dropInput.observe (.response s.rsp)).clearCommand := State.ack_done hf
      rw [h]; exact .delivered hm hi hf
    · have h : s.takeInput .ack = s.dropInput := State.ack_other hf
      rw [h]; exact .noEffect hm hi hr
  | cancel =>
    by_cases hf : s.fsm = .busy
    · have h : s.takeInput .cancel = (s.dropInput.observe .cancelled).withdrawRequest.clearCommand := State.cancel_busy hf
      rw [h]; exact .cancelled hm hi hf
    · have h : s.takeInput .cancel = s.dropInput := State.cancel_other hf
      rw [h]; exact .noEffect hm hi hr
  | read f =>
    by_cases hf : s.fsm = .done
    · cases hv : s.rsp.field f with
      | some v =>
        have h : s.takeInput (.read f) = { s.dropInput with callerReads := s.callerReads ++ [v] } :=
          State.readField_value hf hv
        rw [h]; exact .read hm hi hf hv
      | none =>
        have h : s.takeInput (.read f) = s.dropInput.raiseFault .unwrittenRead := State.readField_unwritten hv
        rw [h]; exact .misread hm hi (.inr hv)
    · have h : s.takeInput (.read f) = s.dropInput.raiseFault .unwrittenRead := State.readField_outside hf
      rw [h]; exact .misread hm hi (.inl hf)

/-- Every step is one of the effects. -/
theorem step_effect {s t : State} (h : step s = .next t) : s.Effect t := by
  rcases step_cases h with ⟨rest, hi, ht⟩ | ⟨hm, ht⟩ | ⟨hm, c, i, ha, hd, ht⟩ | ⟨hm, c, F, ha, hd, ht⟩ | ⟨hm, ha, hi, ht⟩ |
    ⟨hm, ha, r, rest, q, i, hi, hf, hq, hc, ht⟩ | ⟨hm, ha, r, rest, q, hi, hf, hq, hc, ht⟩ |
    ⟨hm, ha, r, rest, hi, hn, ht⟩ | ⟨hm, ha, inp, rest, hi, hr, hn, ht⟩
  · cases ht; exact .reset hi
  · cases ht; exact .passed hm
  · obtain ⟨hf, hp⟩ := State.acceptable_some ha
    have hu := s.unmarked_iff.mp hm
    cases hop : operandCheck s.params i with
    | none => rw [exec_issue hf hu hop] at ht; cases ht; exact .issued hu hf hp hd hop
    | some F => rw [exec_refuse hf hu hop] at ht; cases ht; exact .refused hu hf hp (.inr ⟨i, hd, hop⟩)
  · obtain ⟨hf, hp⟩ := State.acceptable_some ha
    cases ht; exact .refused (s.unmarked_iff.mp hm) hf hp (.inl hd)
  · cases ht; exact .waited (s.unmarked_iff.mp hm) ha hi
  · have hans : s.Answered q r rest := ⟨hf, s.unmarked_iff.mp hm, hq, hi⟩
    rw [exec_answer hans] at ht
    rcases State.respond_cases q (deframe i) r s.dropInput with ⟨e, rfl, hh⟩ | ⟨d, res, rfl, hs, hdf, hh⟩ |
      ⟨d, rfl, hs, hdf, hh⟩ | ⟨d, rfl, hs, hh⟩ <;> rw [hh] at ht <;> cases ht
    · exact .failed hans
    · exact .finished hans hc hs hdf
    · exact .undecodable hans hc hs hdf
    · exact .misshapen hans hs
  · cases ht; exact .unlatched ⟨hf, s.unmarked_iff.mp hm, hq, hi⟩ hc
  · cases ht; exact .unasked (s.unmarked_iff.mp hm) hi hn
  · cases ht; exact State.takeInput_effect (s.unmarked_iff.mp hm) hi hr hn

end Sys2Proof.Machine
end

