-- ==== Sys2Proof/Tests/Slice0.lean ====
section
/-! SUPPORT. Tests on fixed values, whose expected results are the spec's (30_encoding, 95_test_vectors), and for every obligation
with hypotheses a state and operands that meet them. -/

namespace Sys2Proof.Tests

open Sys2Proof.Machine

/-! ## Helpers -/

/-- A command whose word alone matters. -/
def wordCmd (cw : CmdWord) : Cmd := ⟨cw, Vector.replicate 32 0, none⟩

/-- `WB` of 95 2.3: cell `i` holds 0xA0 + `i`. -/
def risingBuf : WriteBuf := Vector.ofFn fun i : Fin 32 => BitVec.ofNat 8 (0xA0 + i.val)

/-- The reset machine with a command presented. -/
def presented (c : Cmd) : State := { State.reset with cmdPort := some c }

/-- A machine in BUSY with command `i` in progress and the answer `r` next. -/
def asked (i : Instr) (r : TRsp) (rest : List Input) : State :=
  { State.reset with fsm := .busy, opr := latch (encode i), treq := some (frame i), inputs := .respond r :: rest }

/-- A machine in DONE with response `r` of command `i`. -/
def answered (i : Instr) (r : Rsp) (inputs : List Input) : State :=
  { State.reset with fsm := .done, opr := latch (encode i), rsp := r, inputs := inputs }

/-- Something of the next state of one step. -/
def after {α : Type} (f : State → α) (s : State) : Option α :=
  match step s with
  | .next t => some (f t)
  | .fault _ => none
  | .refused _ => none

/-- The request outstanding after the step that accepts `c`, with the controller state. -/
def issues (c : Cmd) : Option (Fsm × Option TReq) := after (fun t => (t.fsm, t.treq)) (presented c)

/-- The refusal recorded by the step that meets `c`. -/
def refuses (c : Cmd) : Option (Option RefuseReason) := after State.refused (presented c)

/-- The response and the fault after the answer `r` to command `i`. -/
def responds (i : Instr) (r : TRsp) : Option (Rsp × Option Fault) := after (fun t => (t.rsp, t.fault)) (asked i r [])

/-- 32 bytes answered to a block read in 95 2.2: the prefix, then 0x01 to 0x1F. -/
def blockAnswer (n : Byte) : List Byte := n :: (List.range 31).map fun k => BitVec.ofNat 8 (k + 1)

/-- Limits of 95 2.4: `MAX_PT_BYTES` 4, `MAX_PT_SEGS` 3. -/
def smallLimits : Params := ⟨4, 3⟩

/-- The reset machine with the limits of 95 2.4. -/
def smallReset : State := State.resetWith smallLimits

/-! ## WellFormed: one ill-formed term for each check -/

theorem test_wf_block_33 : (Instr.blockWrite 0x50 0x20 (List.replicate 33 0)).wf smallLimits = false ∧
    (Instr.blockProcCall 0x50 0x20 (List.replicate 33 0)).wf smallLimits = false ∧
    (Instr.blockWrite 0x50 0x20 (List.replicate 32 0)).wf smallLimits = true := by decide
theorem test_wf_read_size : (Instr.i2cRead 0x3C 5).wf smallLimits = false ∧
    (Instr.i2cRead 0x3C 4).wf smallLimits = true := by decide
theorem test_wf_write_size : (Instr.i2cWrite 0x3C [1, 2, 3, 4, 5]).wf smallLimits = false ∧
    (Instr.i2cWrite 0x3C [1, 2, 3, 4]).wf smallLimits = true := by decide
theorem test_wf_write_read_size : (Instr.i2cWriteRead 0x3C [1, 2, 3, 4, 5] 0).wf smallLimits = false ∧
    (Instr.i2cWriteRead 0x3C [] 5).wf smallLimits = false ∧
    (Instr.i2cWriteRead 0x3C [1, 2, 3, 4] 4).wf smallLimits = true := by decide
theorem test_wf_txn_size : (Instr.i2cTxn 0x3C [.read 1, .read 1, .read 1, .read 1]).wf smallLimits = false ∧
    (Instr.i2cTxn 0x3C [.read 5]).wf smallLimits = false ∧
    (Instr.i2cTxn 0x3C [.write [1, 2, 3, 4, 5]]).wf smallLimits = false ∧
    (Instr.i2cTxn 0x3C [.read 4, .write [1, 2, 3, 4], .read 0]).wf smallLimits = true := by decide

/-! ## Decoding: words written out bit by bit, field by field (30_encoding R67)

From the left: reserved 47:44, `D1` 43:36, `D0` 35:28, `REG` 27:20, `ADDR` 19:12, reserved 11, `LEN` 10:5, `Q` 4, `OP` 3:0. -/

/-- `QUICK 0x0B, 1`. -/
theorem test_decode_quick :
    decodeTableWord 48 0b0000_00000000_00000000_00000000_00001011_0_000000_1_0000 = some (.quick 0x0B true) := by decide
/-- `RECV_BYTE 0x20`. -/
theorem test_decode_recvByte :
    decodeTableWord 48 0b0000_00000000_00000000_00000000_00100000_0_000000_0_0001 = some (.recvByte 0x20) := by decide
/-- `SEND_BYTE 0x20, 0x7E`. -/
theorem test_decode_sendByte :
    decodeTableWord 48 0b0000_00000000_01111110_00000000_00100000_0_000000_0_0010 = some (.sendByte 0x20 0x7E) := by decide
/-- `READ_BYTE 0x48, 0x01`. -/
theorem test_decode_readByte :
    decodeTableWord 48 0b0000_00000000_00000000_00000001_01001000_0_000000_0_0011 = some (.readByte 0x48 0x01) := by decide
/-- `READ_WORD 0x48, 0x05`. -/
theorem test_decode_readWord :
    decodeTableWord 48 0b0000_00000000_00000000_00000101_01001000_0_000000_0_0100 = some (.readWord 0x48 0x05) := by decide
/-- `WRITE_BYTE 0x48, 0x01, 0x60`. -/
theorem test_decode_writeByte :
    decodeTableWord 48 0b0000_00000000_01100000_00000001_01001000_0_000000_0_0101 =
      some (.writeByte 0x48 0x01 0x60) := by decide
/-- `WRITE_WORD 0x48, 0x10, 0xBEEF`. -/
theorem test_decode_writeWord :
    decodeTableWord 48 0b0000_10111110_11101111_00010000_01001000_0_000000_0_0110 =
      some (.writeWord 0x48 0x10 0xBEEF) := by decide
/-- `PROC_CALL 0x48, 0x30, 0x0102`. -/
theorem test_decode_procCall :
    decodeTableWord 48 0b0000_00000001_00000010_00110000_01001000_0_000000_0_0111 =
      some (.procCall 0x48 0x30 0x0102) := by decide
/-- `BLOCK_READ 0x16, 0x20`. -/
theorem test_decode_blockRead :
    decodeTableWord 48 0b0000_00000000_00000000_00100000_00010110_0_000000_0_1000 = some (.blockRead 0x16 0x20) := by decide
/-- `BLOCK_WRITE 0x50, 0x20` with `LEN` 3, of the buffer of 95 2.3. -/
theorem test_decode_blockWrite :
    decode ⟨0b0000_00000000_00000000_00100000_01010000_0_000011_0_1001, risingBuf, none⟩ =
      .ok (.blockWrite 0x50 0x20 [0xA0, 0xA1, 0xA2]) := by decide
/-- `BLOCK_PROC_CALL 0x16, 0x40` with `LEN` 1, of the buffer of 95 2.3. -/
theorem test_decode_blockProcCall :
    decode ⟨0b0000_00000000_00000000_01000000_00010110_0_000001_0_1010, risingBuf, none⟩ =
      .ok (.blockProcCall 0x16 0x40 [0xA0]) := by decide
/-- `I2C_READ 0x3C, 2`. -/
theorem test_decode_i2cRead :
    decode ⟨0b0000_00000000_00000000_00000000_00111100_0_000000_0_1011, risingBuf, some (.readPT 2)⟩ =
      .ok (.i2cRead 0x3C 2) := by decide
/-- `I2C_WRITE 0x3C` of two bytes. -/
theorem test_decode_i2cWrite :
    decode ⟨0b0000_00000000_00000000_00000000_00111100_0_000000_0_1100, risingBuf, some (.writePT [0x00, 0xAF])⟩ =
      .ok (.i2cWrite 0x3C [0x00, 0xAF]) := by decide
/-- `I2C_WRITE_READ 0x3C` of two bytes, 4 back. -/
theorem test_decode_i2cWriteRead :
    decode ⟨0b0000_00000000_00000000_00000000_00111100_0_000000_0_1101, risingBuf, some (.writeReadPT [0x00, 0x10] 4)⟩ =
      .ok (.i2cWriteRead 0x3C [0x00, 0x10] 4) := by decide
/-- `I2C_TXN 0x3C, [R 1, W of one byte, R 2]`. -/
theorem test_decode_i2cTxn :
    decode ⟨0b0000_00000000_00000000_00000000_00111100_0_000000_0_1110, risingBuf,
        some (.txnPT [.read 1, .write [0x01], .read 2])⟩ =
      .ok (.i2cTxn 0x3C [.read 1, .write [0x01], .read 2]) := by decide

/-- Rows of the opcode table never overlap: their patterns differ in `OP`, which every mask has (30_encoding R76). -/
theorem test_rows_distinct : opcodeTable.Pairwise (fun r r' => r.pattern ≠ r'.pattern) ∧
    (∀ r ∈ opcodeTable, r.mask &&& 0xF = 0xF) ∧ opcodeTable.length = 15 := by decide

/-! ## Admission (95 2.5, 2.3, 2.4) -/

theorem test_refuse_opcode : refuses (wordCmd 0x00000004800F) = some (some .reservedOpcode) ∧
    refuses (wordCmd 0x00000000080F) = some (some .reservedOpcode) := by decide
theorem test_refuse_reserved : refuses (wordCmd 0x000000148803) = some (some .reservedBits) ∧
    refuses (wordCmd 0x100000148003) = some (some .reservedBits) ∧
    refuses (wordCmd 0x000000000D09) = some (some .reservedBits) := by decide
theorem test_refuse_unused : refuses (wordCmd 0x000000148000) = some (some .unusedField) ∧
    refuses (wordCmd 0x000000048011) = some (some .unusedField) ∧
    refuses (wordCmd 0x000050148003) = some (some .unusedField) ∧
    refuses (wordCmd 0x001050048002) = some (some .unusedField) := by decide
theorem test_refuse_unused_length : refuses (wordCmd 0x000000148046) = some (some .unusedField) ∧
    refuses (wordCmd 0x000000148048) = some (some .unusedField) := by decide
theorem test_refuse_length : refuses (wordCmd 0x000002050429) = some (some .blockLength) ∧
    refuses (wordCmd 0x0000020507E9) = some (some .blockLength) ∧
    refuses (wordCmd 0x00000401642A) = some (some .blockLength) := by decide
theorem test_refuse_shape : refuses ⟨0x00000003C00B, risingBuf, some (.writePT [0x01])⟩ = some (some .ptShape) ∧
    refuses ⟨0x00000003C00B, risingBuf, none⟩ = some (some .ptShape) := by decide
/-- `PT_SIZE` beyond the limits of 95 2.4. -/
theorem test_refuse_size :
    after State.refused { smallReset with cmdPort := some ⟨0x00000003C00B, risingBuf, some (.readPT 5)⟩ } =
      some (some .ptSize) := by decide
theorem test_nearest_accepted : refuses (wordCmd 0x000000148003) = some none ∧
    refuses (wordCmd 0x000002050409) = some none := by decide

/-! ## The requests (95 2.1 to 2.4) -/

theorem test_issue_quick : issues (wordCmd 0x00000000B010) = some (.busy, some (.read 0x0B 0)) ∧
    issues (wordCmd 0x00000000B000) = some (.busy, some (.write 0x0B [])) := by decide
theorem test_issue_recvByte : issues (wordCmd 0x0000000FF001) = some (.busy, some (.read 0xFF 1)) := by decide
theorem test_issue_sendByte : issues (wordCmd 0x0007E0020002) = some (.busy, some (.write 0x20 [0x7E])) := by decide
theorem test_issue_readByte :
    issues (wordCmd 0x00000FF48003) = some (.busy, some (.writeRead 0x48 [0xFF] 1)) := by decide
theorem test_issue_readWord :
    issues (wordCmd 0x000000548004) = some (.busy, some (.writeRead 0x48 [0x05] 2)) := by decide
theorem test_issue_writeByte :
    issues (wordCmd 0x000600148005) = some (.busy, some (.write 0x48 [0x01, 0x60])) := by decide
theorem test_issue_writeWord :
    issues (wordCmd 0x0BEEF1048006) = some (.busy, some (.write 0x48 [0x10, 0xEF, 0xBE])) := by decide
theorem test_issue_procCall : issues (wordCmd 0x001023048007) =
    some (.busy, some (.txn 0x48 [.write [0x30, 0x02, 0x01], .read 2])) := by decide
theorem test_issue_blockRead :
    issues (wordCmd 0x000002016008) = some (.busy, some (.writeRead 0x16 [0x20] 32)) := by decide
theorem test_issue_blockWrite :
    issues ⟨0x000002050009, risingBuf, none⟩ = some (.busy, some (.txn 0x50 [.write [0x20, 0x00], .write []])) ∧
    issues ⟨0x000002050409, risingBuf, none⟩ =
      some (.busy, some (.txn 0x50 [.write [0x20, 0x20], .write risingBuf.toList])) := by decide
theorem test_issue_blockProcCall : issues ⟨0x00000401602A, writeBufOf [0xAA], none⟩ =
    some (.busy, some (.txn 0x16 [.write [0x40, 0x01], .write [0xAA], .read 32])) := by decide
theorem test_issue_i2cRead :
    issues ⟨0x00000003C00B, risingBuf, some (.readPT 2)⟩ = some (.busy, some (.read 0x3C 2)) := by decide
theorem test_issue_i2cWrite : issues ⟨0x00000003C00C, risingBuf, some (.writePT [0x00, 0xAF])⟩ =
    some (.busy, some (.write 0x3C [0x00, 0xAF])) := by decide
theorem test_issue_i2cWriteRead : issues ⟨0x00000003C00D, risingBuf, some (.writeReadPT [0x00, 0x10] 4)⟩ =
    some (.busy, some (.writeRead 0x3C [0x00, 0x10] 4)) := by decide
theorem test_issue_i2cTxn : issues ⟨0x00000003C00E, risingBuf, some (.txnPT [.read 1, .write [0x01], .read 2])⟩ =
    some (.busy, some (.txn 0x3C [.read 1, .write [0x01], .read 2])) := by decide

/-! ## The responses (95 2.1 to 2.4) -/

theorem test_answer_quick : responds (.quick 0x0B true) (.ok [[]]) = some (rspNone, none) ∧
    responds (.quick 0x0B true) (.ok [[0x00]]) = some (Rsp.bottom, some .badTransportResponse) := by decide
theorem test_answer_recvByte : responds (.recvByte 0x20) (.ok [[0xA5]]) = some (rspByte 0xA5, none) := by decide
theorem test_answer_sendByte : responds (.sendByte 0x20 0x7E) (.ok []) = some (rspNone, none) := by decide
theorem test_answer_readByte : responds (.readByte 0x48 0x01) (.ok [[0x3C]]) = some (rspByte 0x3C, none) := by decide
theorem test_answer_readWord : responds (.readWord 0x48 0x05) (.ok [[0x34, 0x12]]) = some (rspWord 0x1234, none) ∧
    responds (.readWord 0x48 0x05) (.ok [[0x34]]) = some (Rsp.bottom, some .badTransportResponse) := by decide
theorem test_answer_writeByte : responds (.writeByte 0x48 0x01 0x60) (.ok []) = some (rspNone, none) := by decide
theorem test_answer_writeWord : responds (.writeWord 0x48 0x10 0xBEEF) (.ok []) = some (rspNone, none) := by decide
theorem test_answer_procCall :
    responds (.procCall 0x48 0x30 0x0102) (.ok [[0xCD, 0xAB]]) = some (rspWord 0xABCD, none) ∧
    responds (.procCall 0x48 0x30 0x0102) (.err ⟨1⟩) =
      some ({ (Rsp.bottom : Rsp) with rstat := some 1, rerr := some ⟨1⟩ }, none) := by decide
/-- 95 2.2 for `N` = 0, 30, 31, 32, 250 and 255: `RLEN`, and the last cell kept and the first not kept. -/
theorem test_answer_blockRead : ([0, 30, 31, 32, 250, 255].map fun n : Byte =>
    (responds (.blockRead 0x16 0x20) (.ok [blockAnswer n])).map fun p => (p.1.rlen, p.1.rbuf[0], p.1.rbuf[30], p.1.rbuf[31])) =
    [some (some 1, some 0x00, none, none), some (some 31, some 0x1E, some 0x1E, none),
     some (some 32, some 0x1F, some 0x1E, some 0x1F), some (some 32, some 0x20, some 0x1E, some 0x1F),
     some (some 32, some 0xFA, some 0x1E, some 0x1F), some (some 32, some 0xFF, some 0x1E, some 0x1F)] := by decide
theorem test_answer_blockRead_short :
    responds (.blockRead 0x16 0x20) (.ok [(blockAnswer 3).take 31]) = some (Rsp.bottom, some .badTransportResponse) := by decide
theorem test_answer_blockWrite : responds (.blockWrite 0x50 0x20 [0xA0]) (.ok []) = some (rspNone, none) := by decide
theorem test_answer_blockProcCall :
    ((responds (.blockProcCall 0x16 0x40 [0xAA]) (.ok [[0x02, 0x10, 0x20] ++ List.replicate 29 0])).map fun p =>
      (p.1.rlen, p.1.rbuf[0], p.1.rbuf[2], p.1.rbuf[3])) = some (some 3, some 0x02, some 0x20, none) := by decide
theorem test_answer_i2cRead : responds (.i2cRead 0x3C 0) (.ok [[]]) = some (rspPT [[]], none) := by decide
theorem test_answer_i2cWrite : responds (.i2cWrite 0x3C []) (.ok []) = some (rspPT [], none) := by decide
theorem test_answer_i2cWriteRead : responds (.i2cWriteRead 0x3C [0x00, 0x10] 4) (.ok [[1, 2, 3, 4]]) =
    some (rspPT [[1, 2, 3, 4]], none) := by decide
theorem test_answer_i2cTxn : responds (.i2cTxn 0x3C [.read 1, .write [0x01], .read 2]) (.ok [[0x01], [0x02, 0x03]]) =
    some (rspPT [[0x01], [0x02, 0x03]], none) ∧
    responds (.i2cTxn 0x3C [.read 1]) (.ok []) = some (Rsp.bottom, some .badTransportResponse) := by decide

/-! ## The controller (95 2.6) -/

theorem test_reset_state : State.reset.fsm = .idle ∧ State.reset.treq = none ∧ State.reset.opr.cw = none ∧
    State.reset.rsp.rstat = none ∧ State.reset.fault = none ∧ State.reset.refused = none := by decide
theorem test_second_command_waits :
    after (fun t => (t.fsm, t.opr == (latch (encode (.recvByte 0x20))), t.cmdPort))
      { asked (.recvByte 0x20) (.ok [[1]]) [] with inputs := [.present (wordCmd 0x00000000B010)] } =
    some (.busy, true, some (wordCmd 0x00000000B010)) := by decide
theorem test_cancel_busy :
    after (fun t => (t.fsm, t.treq, t.opr.cw, t.obs))
      { asked (.recvByte 0x20) (.ok [[1]]) [] with inputs := [.cancel] } =
    some (.idle, none, none, [⟨latch (encode (.recvByte 0x20)), .cancelled⟩]) := by decide
theorem test_cancel_done : after (fun t => (t.fsm, t.rsp)) (answered (.recvByte 0x20) (rspByte 7) [.cancel]) =
    some (.done, rspByte 7) := by decide
theorem test_ack_done : after (fun t => (t.fsm, t.rsp, t.obs)) (answered (.recvByte 0x20) (rspByte 7) [.ack]) =
    some (.idle, Rsp.bottom, [⟨latch (encode (.recvByte 0x20)), .response (rspByte 7)⟩]) := by decide
theorem test_ack_idle : after (fun t => t) { State.reset with inputs := [.ack] } = some State.reset := by decide
theorem test_reset_recovers : after (fun t => t) { State.reset with
    fault := some .badTransportResponse, fsm := .busy, inputs := [.reset] } = some State.reset := by decide
theorem test_stuck_in_busy : after (fun t => t) { asked (.recvByte 0x20) (.ok [[1]]) [] with inputs := [] } =
    some { asked (.recvByte 0x20) (.ok [[1]]) [] with inputs := [] } := by decide
theorem test_read_fields :
    after State.callerReads (answered (.recvByte 0x20) (rspByte 7) [.read .rbyte]) = some [.byte 7] ∧
    after State.fault (answered (.recvByte 0x20) (rspByte 7) [.read .rword]) = some (some .unwrittenRead) ∧
    after State.fault { State.reset with inputs := [.read .rstat] } = some (some .unwrittenRead) := by decide
/-- A word placed by the host is the command the next step accepts. -/
theorem test_withFetchWord :
    after State.treq (State.reset.withFetchWord 48 0x0BEEF1048006) = some (some (.write 0x48 [0x10, 0xEF, 0xBE])) ∧
    after State.treq (State.reset.withFetchWord 48 0x00000003C00E) = some (some (.txn 0x3C [])) := by decide
/-- Program 1 of 95 Part 3, its first line: three steps from the command presented to its response delivered. -/
theorem test_command_delivered :
    (match Host.Core.run Sys2Proof.core 3 { presented (wordCmd 0x0BEEF1048006) with inputs := [.respond (.ok []), .ack] } with
      | .next t => some (t.fsm, t.treqLog, t.obs.map ObsEntry.ending)
      | .fault _ => none
      | .refused _ => none) =
    some (.idle, [.request (.write 0x48 [0x10, 0xEF, 0xBE])], [.response rspNone]) := by decide
/-- An assembler's refusals: an address, a flag and a word that do not fit, an unknown mnemonic (30_encoding R79, R80). -/
theorem test_assembly_errors : assemble "RECV_BYTE 0x100" = none ∧ assemble "QUICK 1, 2" = none ∧
    assemble "WRITE_WORD 1, 2, 0x10000" = none ∧ assemble "NOP" = none := by decide

/-! ## Witnesses: what the obligations assume can be met -/

/-- `Issues`, `IssuesWithin`: the reset machine is IDLE and unmarked. -/
theorem witness_idle : State.reset.fsm = .idle ∧ State.reset.Unmarked := ⟨rfl, rfl, rfl⟩

/-- `StepRunsThePresentedCommand`, `AcceptanceFollowsAdmission`, `PresentedCommandWaitsUntilIdle`: an admitted command presented in
IDLE. -/
theorem witness_presented : (presented (wordCmd 0x000000148003)).fsm = .idle ∧
    (presented (wordCmd 0x000000148003)).Unmarked ∧
    (presented (wordCmd 0x000000148003)).inputs.head? ≠ some .reset ∧
    (presented (wordCmd 0x000000148003)).cmdPort = some (wordCmd 0x000000148003) ∧
    decode (wordCmd 0x000000148003) = .ok (.readByte 0x48 0x01) ∧
    admission (presented (wordCmd 0x000000148003)).params (wordCmd 0x000000148003) = none := by
  unfold State.Unmarked; decide
/-- `AcceptanceFollowsAdmission`, the clause of a refusal, for each reason. -/
theorem witness_admission_refuses :
    admission smallLimits (wordCmd 0x00000004800F) = some .reservedOpcode ∧
    admission smallLimits (wordCmd 0x000000148803) = some .reservedBits ∧
    admission smallLimits (wordCmd 0x000000148000) = some .unusedField ∧
    admission smallLimits (wordCmd 0x000002050429) = some .blockLength ∧
    admission smallLimits (wordCmd 0x00000003C00B) = some .ptShape ∧
    admission smallLimits ⟨0x00000003C00B, risingBuf, some (.readPT 5)⟩ = some .ptSize := by decide

/-- `EncodedCommandDecodesToItself`, `LatchedCommandReadsBack`, `BytesEachCommandMoves`: the longest block data can be encoded. -/
theorem witness_encodable : (Instr.blockWrite 0xFF 0xFF (List.replicate 32 0xFF)).encodable = true := by decide
/-- `DecodedCommandKeepsItsWord`, `OperandsLatchedAtAcceptance`, `AddressForwardedUnchanged`: a block write with `LEN` 32. -/
theorem witness_decodes_block : decode ⟨0x000002050409, risingBuf, none⟩ = .ok (.blockWrite 0x50 0x20 risingBuf.toList) ∧
    (Instr.blockWrite 0x50 0x20 risingBuf.toList).wf State.reset.params = true ∧
    opField 0x000002050409 = 0x9 ∧ (lenField 0x000002050409).toNat = 32 := by decide
/-- The same, for a passthrough command: its descriptor is latched. -/
theorem witness_decodes_passthrough :
    decode ⟨0x00000003C00B, risingBuf, some (.readPT 2)⟩ = .ok (.i2cRead 0x3C 2) ∧
    (Instr.i2cRead 0x3C 2).wf State.reset.params = true ∧ 0xB ≤ (opField 0x00000003C00B).toNat := by decide
/-- `AddressForwardedUnchanged`, second clause: two words of one reserved form, with different addresses. -/
theorem witness_address_plays_no_part : decode (wordCmd 0x000000148803) = .error .reservedBits ∧
    decode (wordCmd 0x0000001FF803) = .error .reservedBits ∧
    addrField 0x000000148803 ≠ addrField 0x0000001FF803 ∧ regField 0x000000148803 = regField 0x0000001FF803 ∧
    opField 0x000000148803 = opField 0x0000001FF803 ∧ reservedLow 0x000000148803 = reservedLow 0x0000001FF803 := by decide

/-- `OpcodeTableDecodesEveryWord`: a word that matches no row, for each of the three checks. -/
theorem witness_no_row : (∀ r ∈ opcodeTable, r.matches 0x00000004800F = false) ∧
    (∀ r ∈ opcodeTable, r.matches 0x000000148803 = false) ∧
    (∀ r ∈ opcodeTable, r.matches 0x000000148000 = false) := by decide
/-- A word that matches a row, for each of its three outcomes. -/
theorem witness_row :
    (∃ r ∈ opcodeTable, r.matches 0x000002050429 = true ∧ r.mnemonic = "BLOCK_WRITE" ∧ 32 < (lenField 0x000002050429).toNat) ∧
    (∃ r ∈ opcodeTable, r.matches 0x00000003C00B = true ∧ shapeFitsOp (opField 0x00000003C00B) none = false) ∧
    (∃ r ∈ opcodeTable, r.matches 0x000002050409 = true ∧ ¬32 < (lenField 0x000002050409).toNat) := by decide
/-- `AssembledLineDecodesToItsCommand`: a line accepted, the longest block data, and numbers that do not fit: of an address, a data
byte, an element of a byte list and of a `W` segment, a word, a flag, a block. -/
theorem witness_assembled : asmInstr ⟨"SEND_BYTE".toList, [.num 0x20, .num 0x7E]⟩ = some (.sendByte 0x20 0x7E) ∧
    (List.replicate 32 (0xFF : Byte)).length ≤ 32 ∧ 0xFF < 0x100 ∧ 0x100 ∈ [1, 0x100] ∧
    AsmSeg.write [1, 0x100] ∈ [.read 1, .write [1, 0x100]] ∧ 0xFFFF < 0x10000 ∧ 1 < 2 ∧
    32 < (List.replicate 33 0).length := by decide

/-- The premise of `WriteWordCommand` and `ProcessCallCommand`. -/
theorem witness_word_bytes : (0xBEEF : Word).toNat = 256 * (0xBE : Byte).toNat + (0xEF : Byte).toNat := by decide
/-- A block write of `LEN` 33 that uses only its own fields. -/
theorem witness_block_length : opField 0x000002050429 = 0x9 ∧ UsesOnly ⟨false, true, true, false, false⟩ 0x000002050429 ∧
    32 < (lenField 0x000002050429).toNat ∧ opField 0x00000401642A = 0xA ∧
    UsesOnly ⟨false, true, true, false, false⟩ 0x00000401642A ∧ 32 < (lenField 0x00000401642A).toNat := by
  unfold UsesOnly; decide
/-- A passthrough word that uses only its own fields, with another command's descriptor or none. -/
theorem witness_passthrough_shape : opField 0x00000003C00B = 0xB ∧ opField 0x00000003C00C = 0xC ∧
    opField 0x00000003C00D = 0xD ∧ opField 0x00000003C00E = 0xE ∧
    UsesOnly ⟨false, false, false, false, false⟩ 0x00000003C00B ∧ UsesOnly ⟨false, false, false, false, false⟩ 0x00000003C00C ∧
    UsesOnly ⟨false, false, false, false, false⟩ 0x00000003C00D ∧ UsesOnly ⟨false, false, false, false, false⟩ 0x00000003C00E ∧
    (∀ m : Nat, (none : Option PTDesc) ≠ some (.readPT m)) := by
  unfold UsesOnly
  exact ⟨by decide, by decide, by decide, by decide, by decide, by decide, by decide, by decide, fun m h => by cases h⟩
/-- The limits of the passthrough commands and of `ChainedRequestPassesUnchanged`, met at the boundary and passed by one. -/
theorem witness_limits : smallReset.fsm = .idle ∧ smallReset.Unmarked ∧ 4 ≤ smallReset.params.maxPtBytes ∧
    ¬5 ≤ smallReset.params.maxPtBytes ∧ 3 ≤ smallReset.params.maxPtSegs ∧ ¬4 ≤ smallReset.params.maxPtSegs ∧
    (chainCommand (.read 0x3C 4)).wf smallReset.params = true ∧ (chainCommand (.read 0x3C 5)).wf smallReset.params = false := by
  unfold State.Unmarked; decide
/-- The premise of `BlockWriteCommand` and `BlockProcessCallCommand`, met at the boundary and passed by one. -/
theorem witness_block_data : (List.replicate 32 (0 : Byte)).length ≤ 32 ∧ ¬(List.replicate 33 (0 : Byte)).length ≤ 32 := by decide

/-- `AnswersWith`, `AnswersStaged`, `TakesExceptions`, `StepRunsTheLatchedCommand`, `AnswerShapeCheck`,
`TransportErrorForwardedUnchanged`: a machine asked any request, and any answer next, for every command. -/
theorem witness_answered (i : Instr) (r : TRsp) (rest : List Input) : (asked i r rest).Answered (frame i) r rest :=
  ⟨rfl, ⟨rfl, rfl⟩, rfl, rfl⟩
/-- The latched command of such a machine. -/
theorem witness_latched : (asked (.readWord 0x48 0x05) (.ok [[1, 2]]) []).opr.command = some (.readWord 0x48 0x05) := by decide
/-- Answers of the right and of the wrong shape. -/
theorem witness_shapes : shapeOK (frame (.quick 0x0B true)) [[]] = true ∧ shapeOK (frame (.quick 0x0B true)) [[0]] = false ∧
    shapeOK (frame (.quick 0x0B false)) [] = true ∧ shapeOK (frame (.quick 0x0B false)) [[]] = false ∧
    shapeOK (frame (.procCall 0x48 0x30 0x0102)) [[1, 2]] = true ∧ shapeOK (frame (.procCall 0x48 0x30 0x0102)) [[1]] = false ∧
    shapeOK (frame (.blockRead 0x16 0x20)) [blockAnswer 31] = true ∧
    shapeOK (frame (.i2cTxn 0x3C [.read 1, .write [1], .read 2])) [[1], [2, 3]] = true := by decide
/-- `BlockResultIsTruncatedAndClamped`: 31 bytes after the prefix, and the request of both block reads. -/
theorem witness_block_answer : ((blockAnswer 250).drop 1).length = 31 ∧ readShape (frame (.blockRead 0x16 0x20)) = [32] ∧
    readShape (frame (.blockProcCall 0x16 0x40 [])) = [32] := by decide
/-- `WordRoundTripThroughADevice`: the machine that wrote 0xBEEF and the machine that is answered with the two bytes written. -/
theorem witness_word_round_trip :
    (∃ t, exec (.writeWord 0x48 0x10 0xBEEF) State.reset = .next t ∧
      (bytesWritten (t.treq.getD (.read 0 0))).drop 1 = [0xEF, 0xBE]) ∧
    (asked (.readWord 0x48 0x10) (.ok [[0xEF, 0xBE]]) []).Answered (.writeRead 0x48 [0x10] 2) (.ok [[0xEF, 0xBE]]) [] :=
  ⟨⟨_, rfl, by decide⟩, rfl, ⟨rfl, rfl⟩, rfl, rfl⟩
/-- `IgnoredInputsHaveNoEffect`: a block write whose unused cells and descriptor differ. -/
theorem witness_ignored_inputs :
    SameUsedInputs ⟨0x000002050029, writeBufOf [0xA0], none⟩ ⟨0x000002050029, risingBuf, some (.readPT 1)⟩ ∧
    (writeBufOf [0xA0]) ≠ risingBuf := by
  unfold SameUsedInputs; decide
/-- `PresentedCommandWaitsUntilIdle`: a command presented in DONE, before it reaches the port and while it stands there. -/
theorem witness_waits : (answered (.recvByte 0x20) (rspByte 7) [.present (wordCmd 1)]).fsm ≠ .idle ∧
    (answered (.recvByte 0x20) (rspByte 7) [.present (wordCmd 1)]).Unmarked ∧
    (answered (.recvByte 0x20) (rspByte 7) [.present (wordCmd 1)]).cmdPort = none ∧
    ({ answered (.recvByte 0x20) (rspByte 7) [.ack] with cmdPort := some (wordCmd 1) } : State).cmdPort = some (wordCmd 1) := by
  unfold State.Unmarked; decide
/-- The same in IDLE: the reset machine, its port free, meets the command that is presented to it, and puts it on the port. -/
theorem witness_presents_in_idle : ({ State.reset with inputs := [.present (wordCmd 1)] } : State).fsm = .idle ∧
    ({ State.reset with inputs := [.present (wordCmd 1)] } : State).Unmarked ∧
    after (fun t => (t.fsm, t.cmdPort, t.inputs)) { State.reset with inputs := [.present (wordCmd 1)] } =
      some (.idle, some (wordCmd 1), []) := by
  unfold State.Unmarked; decide
/-- `AckDeliversAndClears`, `ResponseReadableOnlyInDone`, `OnlyAckOrResetLeavesDone`: a response presented, a field of it that holds a
value and one that does not. -/
theorem witness_done : (answered (.recvByte 0x20) (rspByte 7) [.ack]).fsm = .done ∧
    (answered (.recvByte 0x20) (rspByte 7) [.ack]).Unmarked ∧ (rspByte 7).field .rbyte = some (.byte 7) ∧
    (rspByte 7).field .rword = none ∧
    after State.fsm (answered (.recvByte 0x20) (rspByte 7) [.ack]) = some .idle := by
  unfold State.Unmarked; decide
/-- `CancelWithdrawsInBusyOnly`, `CancelAndRespondInEitherOrder`, `BusyUntilAnswerCancelOrReset`: both orders of the two inputs, the
second with a command waiting on the port. -/
theorem witness_busy : (asked (.recvByte 0x20) (.ok [[7]]) [.cancel]).Answered (.read 0x20 1) (.ok [[7]]) [.cancel] ∧
    ({ asked (.recvByte 0x20) (.ok [[7]]) [] with inputs := [.cancel, .respond (.ok [[7]])] } : State).treq =
      some (.read 0x20 1) ∧
    after State.fsm (asked (.recvByte 0x20) (.ok [[7]]) [.cancel]) = some .done ∧
    after (fun t => (t.fsm, t.cmdPort)) { asked (.recvByte 0x20) (.ok [[7]]) [] with
      inputs := [.cancel, .respond (.ok [[7]])], cmdPort := some (wordCmd 0xB010) } = some (.idle, some (wordCmd 0xB010)) ∧
    decode (wordCmd 0xB010) = .ok (.quick 0x0B true) :=
  ⟨⟨rfl, ⟨rfl, rfl⟩, rfl, rfl⟩, rfl, by decide, by decide, by decide⟩
/-- `AckOutsideDoneHasNoEffect`: Ack in BUSY, and in IDLE with nothing presented. -/
theorem witness_ack_outside : ({ asked (.recvByte 0x20) (.ok [[7]]) [] with inputs := [.ack] } : State).fsm = .busy ∧
    ({ asked (.recvByte 0x20) (.ok [[7]]) [] with inputs := [.ack] } : State).Unmarked ∧
    ({ State.reset with inputs := [.ack] } : State).fsm = .idle ∧ ({ State.reset with inputs := [.ack] } : State).cmdPort = none := by
  unfold State.Unmarked; decide
/-- `EndedRunKeepsItsResult`: a run that has ended well, with nothing to come, with a read, and with a Reset after which another
command is presented; a command still to come in this run, and BUSY, are not its end. -/
theorem witness_ended : State.reset.EndedWell ∧ ({ State.reset with inputs := [.ack, .read .rstat] } : State).EndedWell ∧
    ({ State.reset with inputs := [.reset, .present (wordCmd 1)] } : State).EndedWell ∧
    ¬({ State.reset with inputs := [.ack, .present (wordCmd 1)] } : State).EndedWell ∧
    ¬({ State.reset with fsm := .busy } : State).EndedWell := by
  unfold State.EndedWell State.Unmarked; decide
/-- `ErrorValuesAreNeverInspected`, `EveryErrorTypeRunsAlike`: a machine with errors of another type, one of them next. -/
theorem witness_error_type : (asked (.recvByte 0x20) (.err ⟨1⟩) []).mapError (fun _ => 'e') =
    { State.resetWith Config.resetParams with
      fsm := .busy, opr := latch (encode (.recvByte 0x20)), treq := some (.read 0x20 1), inputs := [.respond (.err 'e')] } := by
  decide

/-- `MarksDisableEveryStepButReset`, `ResetFromEveryState`: a faulted machine in BUSY and a refused one, Reset next. -/
theorem witness_marked : (after State.fault (asked (.quick 0x0B true) (.ok []) [.reset])) = some (some .badTransportResponse) ∧
    (after (fun t => t.inputs) (asked (.quick 0x0B true) (.ok []) [.reset])) = some [.reset] ∧
    refuses (wordCmd 0xF) = some (some .reservedOpcode) := by decide

/-- Every command in progress is its own latched command: the machine `asked` meets the invariant, for a read of a word. -/
theorem witness_inv_busy : (asked (.readWord 0x48 0x05) (.ok [[0x34, 0x12]]) []).Inv where
  requestIffBusy := ⟨fun _ => rfl, fun _ => rfl⟩
  idleClear := fun h => by cases h
  latched := fun _ => ⟨.readWord 0x48 0x05, rfl, rfl, fun _ => rfl⟩
  busyClear := fun _ => ⟨rfl, rfl⟩
  doneShaped := fun h => by cases h
  stageWhole := .inl rfl
  refusedIdle := fun h => by cases h
  oneMark := fun h => by cases h.1
  positive := by decide
  obsShaped := fun e he => by cases he
/-- `CommandRunsFromPresentationToDelivery`: an IDLE machine with a command presented, its answer and Ack to come, meets the
invariant. -/
theorem witness_inv_presented : ({ presented (wordCmd 0x000000548004) with
    inputs := [.respond (.ok [[0x34, 0x12]]), .ack] } : State).Inv where
  requestIffBusy := ⟨fun h => (by cases h), fun h => (by cases h)⟩
  idleClear := fun _ => ⟨rfl, rfl, rfl⟩
  latched := fun h => absurd rfl h
  busyClear := fun h => by cases h
  doneShaped := fun h => by cases h
  stageWhole := .inl rfl
  refusedIdle := fun h => by cases h
  oneMark := fun h => by cases h.1
  positive := by decide
  obsShaped := fun e he => by cases he
/-- `EveryStepKeepsTheInvariant`, `EveryCommandIssuesExactlyOneRequest`: its log, one request issued. -/
theorem witness_log_busy : ({ asked (.readWord 0x48 0x05) (.ok [[0x34, 0x12]]) [] with
    treqLog := [.request (.writeRead 0x48 [0x05] 2)] } : State).LogInv where
  issued := by decide
  withdrawn := rfl
/-- `FaultsComeOnlyFromBreaches`: each of the two faults is recorded by some step. -/
theorem witness_faults : after State.fault (asked (.readWord 0x48 0x05) (.ok [[0x34]]) []) = some (some .badTransportResponse) ∧
    after State.fault { asked (.readWord 0x48 0x05) (.ok [[0x34]]) [] with inputs := [.read .rstat] } =
      some (some .unwrittenRead) := by decide
/-- `InvariantsHoldAtReset`: the limits of 95 2.4 are positive. -/
theorem witness_positive : smallLimits.Positive := by decide
/-- `CommandRunsFromPresentationToDelivery`: a read of a word presented to the reset machine, its answer and Ack to come. -/
theorem witness_command_runs : decode (wordCmd 0x000000548004) = .ok (.readWord 0x48 0x05) ∧
    shapeOK (frame (.readWord 0x48 0x05)) [[0x34, 0x12]] = true ∧ (Instr.readWord 0x48 0x05).wf State.reset.params = true ∧
    ({ presented (wordCmd 0x000000548004) with inputs := [.respond (.ok [[0x34, 0x12]]), .ack] } : State).fsm = .idle := by
  decide
/-- The steps of `RequestsIssuedOnlyAtAcceptance`, `StageWrittenOnlyByBlockReads`, `StatusWrittenOnlyByResponse` that write. -/
theorem witness_writes : after (fun t => requestsIssued t.treqLog) (presented (wordCmd 0x000000020001)) = some [.read 0x20 1] ∧
    after (fun t => t.stage[31]) (asked (.blockRead 0x16 0x20) (.ok [blockAnswer 0]) []) = some (some 0x1F) ∧
    after (fun t => t.rsp.rstat) (asked (.blockRead 0x16 0x20) (.err ⟨2⟩) []) = some (some 1) := by decide

end Sys2Proof.Tests
end

section
/-! SUPPORT. An encoded command decodes to itself, and what is latched of a presented command is what is latched of the command it
denotes (30_encoding R71, R72, R79; 10_state R27 to R29). -/

namespace Sys2Proof.Machine

/-- A command can be encoded when its block data fit the 32 cells of `WB`. -/
theorem encodable_iff (i : Instr) : i.encodable = true ↔ i.data.length ≤ 32 := by
  simp [Instr.encodable, blockDataFits]

/-- A command within limits can be encoded. -/
theorem encodable_of_wf {p : Params} {i : Instr} (h : i.wf p = true) : i.encodable = true := by
  simp only [Instr.wf, Bool.and_eq_true] at h
  exact h.1

/-- The word of a command holds its opcode and zero in every field the command does not use (30_encoding R68, R70). -/
theorem encodeWord_fields (i : Instr) : opField (encodeWord i) = i.opcode ∧ UsesOnly (fieldUse i.opcode) (encodeWord i) := by
  cases i <;> simp [encodeWord, Instr.opcode, UsesOnly, fieldUse]

/-- The length field of a command's word counts its block data, zero for a command without any (30_encoding R70, R71). -/
@[simp] theorem lenField_encodeWord (i : Instr) : lenField (encodeWord i) = lengthField i.data := by
  cases i <;> simp [encodeWord, Instr.data, lengthField]

/-- The block data of an encoded command are the command's. -/
theorem blockData_encode {i : Instr} (h : i.encodable = true) : blockData (encode i) = i.data := by
  rw [encodable_iff] at h
  rw [blockData, show lenField (encode i).cw = lengthField i.data from lenField_encodeWord i, lengthField_toNat _ h]
  exact writeBufOf_take _ h

/-- The operands of an encoded command are read back (30_encoding R71). -/
theorem decodeOperands_encode {i : Instr} (h : i.encodable = true) : decodeOperands (encode i) = .ok i := by
  have hd := blockData_encode h
  have hw (cw : CmdWord) (w : Word) (h0 : d0Field cw = loByte w) (h1 : d1Field cw = hiByte w) : wordField cw = w :=
    (wordField_eq_iff cw w).mpr ⟨h0, h1⟩
  unfold decodeOperands
  rw [hd]
  cases i with
  | quick addr flag => cases flag <;> simp [encode, encodeWord]
  | writeWord addr reg word => simp [encode, encodeWord, hw (w := word)]
  | procCall addr reg word => simp [encode, encodeWord, hw (w := word)]
  | _ => simp [encode, encodeWord, Instr.desc, Instr.data]

/-- A command that can be encoded decodes to itself (30_encoding R79). -/
theorem decode_encode {i : Instr} (h : i.encodable = true) : decode (encode i) = .ok i := by
  obtain ⟨hop, huse⟩ := encodeWord_fields i
  refine (decode_iff _ _).mpr ⟨hop, huse, fun _ => ?_, decodeOperands_encode h⟩
  rw [encodable_iff] at h
  rwa [show lenField (encode i).cw = lengthField i.data from lenField_encodeWord i, lengthField_toNat _ h]

/-- Only a block write carries block data (30_encoding R70). -/
theorem data_of_not_block {i : Instr} (h : isBlockWriteOp i.opcode = false) : i.data = [] := by
  cases i <;> simp_all [isBlockWriteOp, Instr.opcode, Instr.data]

/-- Only a passthrough command carries a descriptor (30_encoding R70). -/
theorem desc_of_not_passthrough {i : Instr} (h : isPassthroughOp i.opcode = false) : i.desc = none := by
  cases i <;> simp_all [isPassthroughOp, Instr.opcode, Instr.desc]

/-- What the block latches of a command whose word, block data and descriptor are those of `i` (10_state R27 to R29). -/
theorem latch_eq {c : Cmd} {i : Instr} (hcw : c.cw = encodeWord i)
    (hdata : isBlockWriteOp i.opcode = true → blockData c = i.data)
    (hdesc : isPassthroughOp i.opcode = true → c.ptd = i.desc) :
    latch c = ⟨some (encodeWord i), cellsOf i.data, i.desc⟩ := by
  have hwbuf : (if isBlockWriteOp i.opcode then cellsOf (blockData c) else Cells.bottom) = cellsOf i.data := by
    split
    case isTrue h => rw [hdata h]
    case isFalse h => rw [data_of_not_block (by simpa using h), cellsOf_nil]
  have hptd : (if isPassthroughOp i.opcode then c.ptd else none) = i.desc := by
    split
    case isTrue h => exact hdesc h
    case isFalse h => rw [desc_of_not_passthrough (by simpa using h)]
  rw [latch, hcw, (encodeWord_fields i).1, hwbuf, hptd]

/-- What the block latches of an encoded command. -/
theorem latch_encode {i : Instr} (h : i.encodable = true) :
    latch (encode i) = ⟨some (encodeWord i), cellsOf i.data, i.desc⟩ :=
  latch_eq rfl (fun _ => blockData_encode h) (fun _ => rfl)

/-- The latched operands of a command that can be encoded hold that command (40 R83). -/
theorem command_latch_encode {i : Instr} (h : i.encodable = true) : (latch (encode i)).command = some i := by
  have hlen := (encodable_iff i).mp h
  have hd : decode ⟨encodeWord i, writeBufOf i.data, i.desc⟩ = .ok i := decode_encode h
  rw [latch_encode h]
  simp [Opr.command, lengthField_toNat _ hlen, cellsRead_cellsOf _ hlen, hd]

/-- The length field of a block write counts the data taken from `WB`. -/
theorem lengthField_blockData {c : Cmd} (h : (lenField c.cw).toNat ≤ 32) : lengthField (blockData c) = lenField c.cw := by
  apply BitVec.eq_of_toNat_eq
  rw [lengthField, blockData_length, BitVec.toNat_ofNat]
  omega

/-- A presented command that decodes holds the word, the block data and the descriptor of the command it denotes. -/
theorem operands_of_decode {c : Cmd} {i : Instr} (h : decode c = .ok i) : c.cw = encodeWord i ∧
    (isBlockWriteOp i.opcode = true → blockData c = i.data) ∧ (isPassthroughOp i.opcode = true → c.ptd = i.desc) := by
  obtain ⟨hop, ⟨hlow, hhigh, huse⟩, hlen, hargs⟩ := (decode_iff c i).mp h
  have hpack := packWord_fields c.cw hlow hhigh
  have hflag : ∀ q : BitVec 1, BitVec.ofBool (q == 1#1) = q := by decide
  obtain ⟨hlo, hhi⟩ := (wordField_eq_iff c.cw _).mp rfl
  unfold decodeOperands at hargs
  rw [hop] at hargs hpack
  rw [← hpack]
  cases i <;> simp [Instr.opcode, fieldUse] at hargs huse
  case quick => simp [encodeWord, Instr.opcode, isBlockWriteOp, isPassthroughOp, huse, ← hargs, hflag]
  case writeWord | procCall =>
    simp [encodeWord, Instr.opcode, isBlockWriteOp, isPassthroughOp, huse, ← hargs, ← hlo, ← hhi]
  case blockWrite | blockProcCall =>
    simp [encodeWord, Instr.opcode, Instr.data, isPassthroughOp, huse, ← hargs, lengthField_blockData (hlen rfl)]
  case i2cRead | i2cWrite | i2cWriteRead | i2cTxn =>
    split at hargs <;> simp_all [encodeWord, Instr.opcode, Instr.desc, isBlockWriteOp]
  all_goals simp [encodeWord, Instr.opcode, isBlockWriteOp, isPassthroughOp, huse, ← hargs]

/-- What the block latches of a presented command that decodes is what it latches of the command it denotes (30_encoding R72). -/
theorem latch_encode_of_decode {c : Cmd} {i : Instr} (h : decode c = .ok i) (hi : i.encodable = true) :
    latch (encode i) = latch c := by
  obtain ⟨hcw, hdata, hdesc⟩ := operands_of_decode h
  rw [latch_encode hi, latch_eq hcw hdata hdesc]

end Sys2Proof.Machine
end

section
/-! SUPPORT. Facts about single operations that proofs about steps share. -/

namespace Sys2Proof.Machine

variable {E : Type}

/-- Taking the input that stands next leaves the inputs after it, and everything else as it was. -/
theorem State.dropInput_eq {s : State E} {inp : Input E} {rest : List (Input E)} (hi : s.inputs = inp :: rest) :
    s.dropInput = { s with inputs := rest } := by
  simp [State.dropInput, hi]

@[simp] theorem State.withdrawRequest_obs (s : State E) : s.withdrawRequest.obs = s.obs := by
  unfold State.withdrawRequest; split <;> rfl

@[simp] theorem State.withdrawRequest_fault (s : State E) : s.withdrawRequest.fault = s.fault := by
  unfold State.withdrawRequest; split <;> rfl

@[simp] theorem State.withdrawRequest_params (s : State E) : s.withdrawRequest.params = s.params := by
  unfold State.withdrawRequest; split <;> rfl

/-- The log of the transport port records the request withdrawn, if one is outstanding. -/
theorem State.withdrawRequest_treqLog (s : State E) :
    s.withdrawRequest.treqLog = s.treqLog ∨ ∃ q, s.withdrawRequest.treqLog = s.treqLog ++ [.withdrawn q] := by
  cases hq : s.treq with
  | none => exact .inl (by rw [State.withdrawRequest_none hq])
  | some q => exact .inr ⟨q, by rw [State.withdrawRequest_some hq]⟩

/-- In BUSY, with no answer to the outstanding request next, a command waits (70 R140). -/
theorem runCommand_unanswered {check : Option RefuseReason} {i : Instr} {q : TReq} {df : ReadData → Option (Result E)}
    {s : State E} (hf : s.fsm = .busy) (h : ∀ asked r, s.treq = some asked → s.inputs.head? ≠ some (.respond r)) :
    runCommand check i q df s = .next s := by
  rcases runCommand_cases (rfl : runCommand check i q df s = _) with
    hw | ⟨-, hi, -⟩ | ⟨-, hi, -⟩ | ⟨-, -, asked, r, rest, hq, hin, -⟩
  · exact hw
  · simp [hf] at hi
  · simp [hf] at hi
  · exact absurd (by rw [hin]; rfl) (h asked r hq)

end Sys2Proof.Machine
end

section
/-! SUPPORT. Every operation of the block commutes with a map of the error values (60_exceptions R115; 00_scope R8). -/

namespace Sys2Proof.Machine

variable {E E' : Type} (f : E → E')

/-- A result with its error value replaced. -/
def Result.mapError (r : Result E) : Result E' where
  rsp := r.rsp.mapError f
  stage := r.stage

/-- A move with every error value of the state it leads to replaced. -/
def Move.mapError : Move E → Move E'
  | .run i => .run i
  | .become s => .become (s.mapError f)

/-! ### What the answer makes of a command -/

theorem deframeByte_mapError (d : ReadData) :
    (deframeByte d : Option (Result E')) = (deframeByte d).map (Result.mapError f) := by
  unfold deframeByte; split <;> rfl

theorem deframeWord_mapError (d : ReadData) :
    (deframeWord d : Option (Result E')) = (deframeWord d).map (Result.mapError f) := by
  unfold deframeWord; split <;> rfl

theorem deframeBlock_mapError (d : ReadData) :
    (deframeBlock d : Option (Result E')) = (deframeBlock d).map (Result.mapError f) := by
  unfold deframeBlock blockDecode
  cases (stageFill d)[0] <;> rfl

/-- No command's deframe looks at the error type. -/
theorem deframe_mapError (i : Instr) (d : ReadData) :
    (deframe i d : Option (Result E')) = (deframe i d).map (Result.mapError f) := by
  cases i with
  | recvByte | readByte => exact deframeByte_mapError f d
  | readWord | procCall => exact deframeWord_mapError f d
  | blockRead | blockProcCall => exact deframeBlock_mapError f d
  | _ => rfl

/-- The value of a field is read with its error replaced. -/
theorem Rsp.field_mapError (r : Rsp E) (fld : RspField) :
    (r.mapError f).field fld = (r.field fld).map (RspValue.mapError f) := by
  cases fld <;> simp [Rsp.field, Rsp.mapError, Function.comp_def, RspValue.mapError]

/-! ### The moves of a command -/

variable (s : State E)

theorem State.dropInput_mapError : (s.mapError f).dropInput = s.dropInput.mapError f := by
  simp [State.dropInput, State.mapError]

theorem State.respond_mapError (q : TReq) (i : Instr) (r : TRsp E) :
    (s.mapError f).respond q (deframe i) (TRsp.mapError f r) = (s.respond q (deframe i) r).mapError f := by
  cases r with
  | err e => rfl
  | ok d =>
    simp only [State.respond, TRsp.mapError, State.respondOk, deframe_mapError f i d]
    split
    · cases (deframe i d : Option (Result E)) <;> rfl
    · rfl

/-- The input that stands next, with its error replaced. -/
theorem State.head_mapError : (s.mapError f).inputs.head? = s.inputs.head?.map (Input.mapError f) :=
  List.head?_map

/-- The meaning of every command commutes with a map of the error values. -/
theorem execOf_mapError (i : Instr) : execOf i (s.mapError f) = mapErrorOutcome f (execOf i s) := by
  unfold execOf
  by_cases hm : s.marked = true
  · rw [runCommand_marked hm, runCommand_marked (s := s.mapError f) hm, mapErrorOutcome]
  replace hm : s.marked = false := by simpa using hm
  have hm' : (s.mapError f).marked = false := hm
  cases hf : s.fsm with
  | idle =>
    rw [show (s.mapError f).params = s.params from rfl]
    cases operandCheck s.params i with
    | none => rw [runCommand_issue hm hf, runCommand_issue hm' hf]; rfl
    | some F => rw [runCommand_refuse hm hf, runCommand_refuse hm' hf]; rfl
  | busy =>
    by_cases h : ∃ asked r rest, s.treq = some asked ∧ s.inputs = .respond r :: rest
    · obtain ⟨asked, r, rest, hq, hi⟩ := h
      have hi' : (s.mapError f).inputs = .respond (TRsp.mapError f r) :: rest.map (Input.mapError f) := by
        simp [State.mapError, hi, Input.mapError]
      rw [runCommand_answer hm hf hq hi, runCommand_answer hm' hf hq hi', State.dropInput_mapError, State.respond_mapError,
        mapErrorOutcome]
    · have hwait (asked : TReq) (r : TRsp E) (hq : s.treq = some asked) : s.inputs.head? ≠ some (.respond r) := fun hr =>
        h ⟨asked, r, s.inputs.tail, hq, (List.cons_head?_tail hr).symm⟩
      rw [runCommand_unanswered hf hwait, runCommand_unanswered (s := s.mapError f) hf ?_, mapErrorOutcome]
      intro asked r' hq hr
      obtain ⟨inp, hinp, hmap⟩ := Option.map_eq_some_iff.mp ((s.head_mapError f).symm.trans hr)
      cases inp <;> cases hmap
      exact hwait asked _ hq hinp
  | done => rw [runCommand_done hf, runCommand_done (s := s.mapError f) hf, mapErrorOutcome]

/-! ### The acts of the Caller and the Transport -/

theorem State.withdrawRequest_mapError : (s.mapError f).withdrawRequest = s.withdrawRequest.mapError f := by
  cases hq : s.treq with
  | none => rw [State.withdrawRequest_none hq, State.withdrawRequest_none (s := s.mapError f) hq]
  | some q => rw [State.withdrawRequest_some hq, State.withdrawRequest_some (s := s.mapError f) hq]; rfl

theorem State.observe_mapError (ending : CmdEnd E) :
    (s.mapError f).observe (ending.mapError f) = (s.observe ending).mapError f := by
  simp [State.observe, State.mapError, ObsEntry.mapError]

theorem State.ack_mapError : (s.mapError f).ack = s.ack.mapError f := by
  by_cases hf : s.fsm = .done
  · rw [State.ack_done hf, State.ack_done (s := s.mapError f) hf]
    exact congrArg State.clearCommand (s.observe_mapError f (.response s.rsp))
  · rw [State.ack_other hf, State.ack_other (s := s.mapError f) hf]

theorem State.cancel_mapError : (s.mapError f).cancel = s.cancel.mapError f := by
  by_cases hf : s.fsm = .busy
  · rw [State.cancel_busy hf, State.cancel_busy (s := s.mapError f) hf]
    exact congrArg State.clearCommand ((congrArg _ (s.observe_mapError f .cancelled)).trans (withdrawRequest_mapError f _))
  · rw [State.cancel_other hf, State.cancel_other (s := s.mapError f) hf]

theorem State.present_mapError (c : Cmd) : (s.mapError f).present c = (s.present c).mapError f := by
  cases hp : s.cmdPort with
  | none => rw [State.present_free hp, State.present_free (s := s.mapError f) hp]; rfl
  | some w => rw [State.present_taken hp, State.present_taken (s := s.mapError f) hp]

theorem State.readField_mapError (fld : RspField) : (s.mapError f).readField fld = (s.readField fld).mapError f := by
  have hfield : (s.mapError f).rsp.field fld = (s.rsp.field fld).map (RspValue.mapError f) := s.rsp.field_mapError f fld
  by_cases hf : s.fsm = .done
  · cases hv : s.rsp.field fld with
    | none =>
      rw [State.readField_unwritten hv, State.readField_unwritten (s := s.mapError f) (by rw [hfield, hv]; rfl)]
      rfl
    | some v =>
      rw [State.readField_value hf hv, State.readField_value (s := s.mapError f) hf (by rw [hfield, hv]; rfl)]
      simp [State.mapError]
  · rw [State.readField_outside hf, State.readField_outside (s := s.mapError f) hf]
    rfl

theorem State.takeReset_mapError : (s.mapError f).takeReset = s.takeReset.mapError f := by
  simp [State.takeReset, State.mapError, State.resetWith, Rsp.mapError, Rsp.bottom]

/-- Every input has the same effect when the error values are replaced. -/
theorem State.takeInput_mapError (inp : Input E) : (s.mapError f).takeInput (inp.mapError f) = (s.takeInput inp).mapError f := by
  cases inp with
  | present c => simp only [Input.mapError, State.takeInput, dropInput_mapError, present_mapError]
  | respond r => exact s.dropInput_mapError f
  | ack => simp only [Input.mapError, State.takeInput, dropInput_mapError, ack_mapError]
  | cancel => simp only [Input.mapError, State.takeInput, dropInput_mapError, cancel_mapError]
  | read fld => simp only [Input.mapError, State.takeInput, dropInput_mapError, readField_mapError]
  | reset => exact s.takeReset_mapError f

/-! ### The step -/

theorem State.acceptMove_mapError (c : Cmd) : (s.mapError f).acceptMove c = (s.acceptMove c).mapError f := by
  unfold State.acceptMove; cases decode c <;> rfl

theorem State.answerMove_mapError : (s.mapError f).answerMove = s.answerMove.mapError f := by
  have hdrop := s.dropInput_mapError f
  unfold State.answerMove
  rw [show (s.mapError f).fsm = s.fsm from rfl, show (s.mapError f).treq = s.treq from rfl,
    show (s.mapError f).opr = s.opr from rfl, hdrop]
  split
  · split <;> rfl
  · rfl

/-- The choice of an unmarked machine's move does not depend on error values. -/
theorem State.ordinaryMove_mapError : (s.mapError f).ordinaryMove = s.ordinaryMove.mapError f := by
  cases ha : s.acceptable with
  | some c =>
    obtain ⟨hf, hp⟩ := State.acceptable_some ha
    rw [State.ordinaryMove_accept hf hp, State.ordinaryMove_accept (s := s.mapError f) hf hp, acceptMove_mapError]
  | none =>
    have ha' : (s.mapError f).acceptable = none := ha
    cases hi : s.inputs with
    | nil => rw [State.ordinaryMove_wait ha hi, State.ordinaryMove_wait ha' (by simp [State.mapError, hi]), Move.mapError]
    | cons inp rest =>
      have hi' : (s.mapError f).inputs = inp.mapError f :: rest.map (Input.mapError f) := by simp [State.mapError, hi]
      by_cases hr : ∃ r, inp = .respond r
      · obtain ⟨r, rfl⟩ := hr
        rw [State.ordinaryMove_answer ha hi, State.ordinaryMove_answer ha' hi', answerMove_mapError]
      · have hact (r : TRsp E) : inp ≠ .respond r := fun h => hr ⟨r, h⟩
        have hact' (r : TRsp E') : inp.mapError f ≠ .respond r := by
          cases inp with
          | respond r => exact absurd rfl (hact r)
          | _ => nofun
        rw [State.ordinaryMove_input ha hi hact, State.ordinaryMove_input ha' hi' hact', takeInput_mapError, Move.mapError]

/-- Reset stands next in both machines or in neither. -/
theorem State.head_reset_mapError : (s.mapError f).inputs.head? = some .reset ↔ s.inputs.head? = some .reset := by
  rw [head_mapError]
  cases s.inputs.head? with
  | none => simp
  | some inp => cases inp <;> simp [Input.mapError]

/-- The choice of the next move does not depend on error values. -/
theorem State.nextMove_mapError : (s.mapError f).nextMove = s.nextMove.mapError f := by
  by_cases hr : s.inputs.head? = some .reset
  · obtain ⟨rest, hi⟩ := List.head?_eq_some_iff.mp hr
    obtain ⟨rest', hi'⟩ := List.head?_eq_some_iff.mp ((s.head_reset_mapError f).mpr hr)
    rw [State.nextMove_reset hi, State.nextMove_reset hi', takeReset_mapError, Move.mapError]
  · have hr' := (s.head_reset_mapError f).not.mpr hr
    cases hm : s.marked with
    | true => rw [State.nextMove_marked hr hm, State.nextMove_marked hr' hm, dropInput_mapError, Move.mapError]
    | false => rw [State.nextMove_unmarked hr hm, State.nextMove_unmarked hr' hm, ordinaryMove_mapError]

/-- The step commutes with a map of the error values (60_exceptions R115). -/
theorem stepOf_mapError : stepOf (s.mapError f) = mapErrorOutcome f (stepOf s) := by
  cases h : s.nextMove with
  | run i => rw [stepOf_run h, stepOf_run (s := s.mapError f) (by rw [s.nextMove_mapError f, h]; rfl), execOf_mapError]
  | become t =>
    rw [stepOf_become h, stepOf_become (s := s.mapError f) (by rw [s.nextMove_mapError f, h]; rfl)]
    rfl

/-! ### The error values a state holds -/

/-- The error of an answer, if it is one. -/
def TRsp.errors : TRsp E → List E
  | .ok _ => []
  | .err e => [e]

/-- The error of a response record, if it holds one. -/
def Rsp.errors (r : Rsp E) : List E := r.rerr.toList

/-- The error a Caller's read handed out, if it did. -/
def RspValue.errors : RspValue E → List E
  | .err e => [e]
  | _ => []

/-- The error of an input, if it is an answer with one. -/
def Input.errors : Input E → List E
  | .respond r => TRsp.errors r
  | _ => []

/-- The error of an entry of the observation, if it delivered one. -/
def ObsEntry.errors (e : ObsEntry E) : List E :=
  match e.ending with
  | .response r => r.errors
  | .cancelled => []

/-- Every error value that stands anywhere in a state: finitely many, of an arbitrary type (00_scope R8). -/
def State.errors (s : State E) : List E :=
  s.rsp.errors ++ s.obs.flatMap ObsEntry.errors ++ s.callerReads.flatMap RspValue.errors ++ s.inputs.flatMap Input.errors

/-! Each part comes back unchanged when its errors are taken to another type and back. -/

variable {f} {g : E' → E}

theorem TRsp.mapError_mapError {r : TRsp E} (h : ∀ e ∈ TRsp.errors r, g (f e) = e) :
    TRsp.mapError g (TRsp.mapError f r) = r := by
  cases r <;> simp_all [TRsp.mapError, TRsp.errors]

theorem Rsp.mapError_mapError {r : Rsp E} (h : ∀ e ∈ r.errors, g (f e) = e) : (r.mapError f).mapError g = r := by
  obtain ⟨rstat, rerr, rkind, rbyte, rword, rlen, rbuf, rpt⟩ := r
  cases rerr <;> simp_all [Rsp.mapError, Rsp.errors]

theorem RspValue.mapError_mapError {v : RspValue E} (h : ∀ e ∈ v.errors, g (f e) = e) : (v.mapError f).mapError g = v := by
  cases v <;> simp_all [RspValue.mapError, RspValue.errors]

theorem Input.mapError_mapError {inp : Input E} (h : ∀ e ∈ inp.errors, g (f e) = e) : (inp.mapError f).mapError g = inp := by
  cases inp with
  | respond r => exact congrArg _ (TRsp.mapError_mapError h)
  | _ => rfl

theorem ObsEntry.mapError_mapError {e : ObsEntry E} (h : ∀ x ∈ e.errors, g (f x) = x) : (e.mapError f).mapError g = e := by
  obtain ⟨cmd, _ | _⟩ := e
  · exact congrArg (fun r => ObsEntry.mk cmd (.response r)) (Rsp.mapError_mapError h)
  · rfl

/-- A list comes back unchanged when each of its members does. -/
theorem map_map_of_errors {α β : Type} {errors : α → List E} {there : α → β} {back : β → α} {l : List α}
    (hback : ∀ a, (∀ e ∈ errors a, g (f e) = e) → back (there a) = a) (h : ∀ e ∈ l.flatMap errors, g (f e) = e) :
    (l.map there).map back = l := by
  rw [List.map_map]
  exact (List.map_congr_left fun a ha => hback a fun e he => h e (List.mem_flatMap.mpr ⟨a, ha, he⟩)).trans (List.map_id l)

/-- A state comes back unchanged when its errors are taken to another type and back. -/
theorem State.mapError_mapError {s : State E} (h : ∀ e ∈ s.errors, g (f e) = e) : (s.mapError f).mapError g = s := by
  simp only [State.errors, List.mem_append] at h
  have hrsp := Rsp.mapError_mapError (f := f) (g := g) (r := s.rsp) fun e he => h e (.inl (.inl (.inl he)))
  have hobs := map_map_of_errors (fun _ => ObsEntry.mapError_mapError) fun e he => h e (.inl (.inl (.inr he)))
  have hreads := map_map_of_errors (fun _ => RspValue.mapError_mapError) fun e he => h e (.inl (.inr he))
  have hinputs := map_map_of_errors (fun _ => Input.mapError_mapError) fun e he => h e (.inr he)
  simp only [State.mapError, hrsp, hobs, hreads, hinputs]

/-- The errors of a list, numbered: number `n` stands for the list's member `n`, and for `e₀` where there is none. -/
def numberedError (l : List E) (e₀ : E) (n : TransportError) : E := (l[n.tag]?).getD e₀

/-- Every member of the list has a number. -/
theorem exists_numberedError_eq {l : List E} (e₀ : E) {e : E} (h : e ∈ l) : ∃ n, numberedError l e₀ n = e := by
  obtain ⟨k, hk⟩ := List.mem_iff_getElem?.mp h
  exact ⟨⟨k⟩, by simp [numberedError, hk]⟩

/-- Every state of a machine whose error type has a value is a state of the machine of `step` with its errors renamed (log 1). -/
theorem State.exists_mapError_eq (e₀ : E) (u : State E) : ∃ (s : State) (f : TransportError → E), s.mapError f = u := by
  have : Nonempty TransportError := ⟨⟨0⟩⟩
  have hinv (e : E) (he : e ∈ u.errors) :
      numberedError u.errors e₀ (Function.invFun (numberedError u.errors e₀) e) = e :=
    Function.invFun_eq (exists_numberedError_eq e₀ he)
  exact ⟨u.mapError (Function.invFun (numberedError u.errors e₀)), numberedError u.errors e₀, State.mapError_mapError hinv⟩

/-- The machine for every error type is, at `TransportError`, the machine of `step`. -/
theorem stepOf_eq_step (s : State) : stepOf s = step s := by
  cases h : s.nextMove with
  | run i => rw [stepOf_run h, step_run h, execOf_eq_exec]
  | become t => rw [stepOf_become h, step_become h]

/-- Settles O34: every operation commutes with a map of the error values, and a state holds finitely many of them. -/
theorem everyErrorTypeRunsAlike : Obligations.EveryErrorTypeRunsAlike := by
  refine ⟨stepOf_eq_step, ?_, fun _ _ f s => stepOf_mapError f s, fun _ _ _ _ => rfl, fun E e₀ u => ?_⟩
  · have hstep : (stepOf : State → _) = step := funext stepOf_eq_step
    rw [coreOf, hstep]
    rfl
  · obtain ⟨s, f, rfl⟩ := State.exists_mapError_eq e₀ u
    exact ⟨s, f, rfl, by rw [stepOf_mapError, stepOf_eq_step]⟩

end Sys2Proof.Machine
end

section
/-! SUPPORT. What every step does to the observation, the end of a run, the faults, and a command from presentation to delivery. -/

namespace Sys2Proof.Machine

/-! ### Every step -/

/-- No step changes the parameters (00_scope R8). -/
theorem State.Effect.params_eq {s t : State} (h : s.Effect t) : t.params = s.params := by
  cases h <;> simp

/-- No step but a Reset does more to the observation on the command port than append a pair (00_scope R11). -/
theorem State.Effect.obs_grows {s t : State} (h : s.Effect t) (hr : s.inputs.head? ≠ some .reset) :
    t.obs = s.obs ∨ ∃ e, t.obs = s.obs ++ [e] := by
  cases h with
  | reset hi => simp [hi] at hr
  | delivered => exact .inr ⟨_, rfl⟩
  | cancelled => exact .inr ⟨⟨s.opr, .cancelled⟩, by simp⟩
  | _ => exact .inl rfl

/-- No step but a Reset does more to the observation on the transport port than append an event (00_scope R11). -/
theorem State.Effect.treqLog_grows {s t : State} (h : s.Effect t) (hr : s.inputs.head? ≠ some .reset) :
    t.treqLog = s.treqLog ∨ ∃ e, t.treqLog = s.treqLog ++ [e] := by
  cases h with
  | reset hi => simp [hi] at hr
  | issued => exact .inr ⟨_, rfl⟩
  | cancelled =>
    rcases (s.dropInput.observe .cancelled).withdrawRequest_treqLog with h | ⟨q, h⟩
    · exact .inl h
    · exact .inr ⟨.withdrawn q, h⟩
  | _ => exact .inl rfl

/-- Settles O53, from the effects of a step on the parameters and on each sequence of the observation. -/
theorem observationOnlyGrows : Obligations.ObservationOnlyGrows := by
  intro s t h
  have he := step_effect h
  exact ⟨he.params_eq, fun hr => ⟨he.obs_grows hr, he.treqLog_grows hr⟩⟩

/-! ### Reading the response (70 R136) -/

/-- Settles O42: nothing can be accepted, so the read takes its turn, and `readField` reads the field or faults. -/
theorem responseReadableOnlyInDone : Obligations.ResponseReadableOnlyInDone := by
  intro s f rest hm hi hport
  have ha : s.acceptable = none := by
    by_cases hf : s.fsm = .idle
    · exact State.acceptable_of_port_free (hport hf)
    · exact State.acceptable_of_not_idle hf
  have hstep : step s = .next (s.dropInput.readField f) := step_input ha hm hi nofun nofun
  rw [hstep, State.dropInput_eq hi]
  refine ⟨fun v hf hv => ?_, ?_⟩
  · rw [State.readField_value (s := { s with inputs := rest }) hf hv]
  · rintro (hf | hv)
    · rw [State.readField_outside (s := { s with inputs := rest }) hf, State.raiseFault]
    · rw [State.readField_unwritten (s := { s with inputs := rest }) hv, State.raiseFault]

/-! ### The end of a run (70 R144) -/

/-- A run in which no command is to come has none to come after any input but a Reset, and none is the next input. -/
theorem presentsNone_cons {inp : Input} {rest : List Input} (h : presentsNone (inp :: rest) = true) (hr : inp ≠ .reset) :
    presentsNone rest = true ∧ ∀ c, inp ≠ .present c := by
  cases inp <;> simp_all [presentsNone]

/-- Where a run has ended well, a step other than a Reset takes an input that has no effect, or a read, which faults. -/
theorem State.EndedWell.step_cases {s t : State} (he : s.EndedWell) (h : step s = .next t)
    (hr : s.inputs.head? ≠ some .reset) : (t = s ∨ t = s.dropInput) ∧ t.EndedWell ∨
      t = s.dropInput.raiseFault .unwrittenRead ∧ ∃ f, s.inputs.head? = some (.read f) := by
  obtain ⟨hf, hm, hp, hi⟩ := he
  have hdrop {inp : Input} {rest : List Input} (hin : s.inputs = inp :: rest) (hne : inp ≠ .reset) : s.dropInput.EndedWell :=
    ⟨hf, hm, hp, by rw [hin] at hi; simpa [hin] using (presentsNone_cons hi hne).1⟩
  have hbusy {q : TReq} {r : TRsp} {rest : List Input} : ¬s.Answered q r rest := fun ⟨hb, _⟩ => by simp [hf] at hb
  cases step_effect h with
  | reset hin => simp [hin] at hr
  | passed hmark => simp [hm.marked] at hmark
  | waited => exact .inl ⟨.inl rfl, hf, hm, hp, hi⟩
  | issued _ _ hport => simp [hp] at hport
  | refused _ _ hport => simp [hp] at hport
  | failed ha => exact absurd ha hbusy
  | finished ha => exact absurd ha hbusy
  | misshapen ha => exact absurd ha hbusy
  | undecodable ha => exact absurd ha hbusy
  | unlatched ha => exact absurd ha hbusy
  | unasked _ hin => exact .inl ⟨.inr rfl, hdrop hin nofun⟩
  | presented _ hin => simp [hin, presentsNone] at hi
  | delivered _ _ hd => simp [hf] at hd
  | cancelled _ _ hb => simp [hf] at hb
  | read _ _ hd => simp [hf] at hd
  | misread _ hin => exact .inr ⟨rfl, _, by rw [hin]; rfl⟩
  | noEffect _ hin hne => exact .inl ⟨.inr rfl, hdrop hin hne⟩

/-- A Reset step leads to the reset state, whatever stood before (10_state R40). -/
theorem step_reset {s : State} (hr : s.inputs.head? = some .reset) : step s = .next s.takeReset := by
  obtain ⟨rest, hi⟩ := List.head?_eq_some_iff.mp hr
  exact step_become (State.nextMove_reset hi)

/-- Settles O54: but for a Reset, a step from a run ended well drops an input or faults on a read. -/
theorem endedRunKeepsItsResult : Obligations.EndedRunKeepsItsResult := by
  intro s t he h
  refine ⟨fun hr => ?_, fun hr => ?_⟩
  · rcases he.step_cases h hr with ⟨rfl | rfl, ht⟩ | ⟨rfl, hread⟩
    · exact ⟨rfl, ht.1, rfl, .inl ht⟩
    · exact ⟨rfl, ht.1, rfl, .inl ht⟩
    · exact ⟨rfl, he.1, rfl, .inr ⟨rfl, hread⟩⟩
  · rw [step_reset hr] at h
    cases h
    exact ⟨rfl, rfl⟩

/-! ### Faults (60_exceptions R120) -/

/-- In BUSY the latched operands hold the command whose request is outstanding (40 R83). -/
theorem State.Inv.command_of_busy {s : State} (h : s.Inv) (hf : s.fsm = .busy) :
    ∃ i : Instr, s.opr.command = some i ∧ s.treq = some (frame i) := by
  obtain ⟨i, hwf, hopr, hreq⟩ := h.latched (by simp [hf])
  exact ⟨i, by rw [hopr, command_latch_encode (encodable_of_wf hwf)], hreq hf⟩

/-- In BUSY the latched command decodes every answer of the shape of the outstanding request (20_memory R57). -/
theorem State.Inv.decodes {s : State} {q : TReq} {d : ReadData} {rest : List Input} {i : Instr} (h : s.Inv)
    (ha : s.Answered q (.ok d) rest) (hc : s.opr.command = some i) (hs : shapeOK q d = true) :
    (deframe i d : Option (Result E)) ≠ none := by
  obtain ⟨hf, -, hq, -⟩ := ha
  obtain ⟨j, hcmd, hreq⟩ := h.command_of_busy hf
  obtain rfl : i = j := Option.some.inj (hc.symm.trans hcmd)
  obtain rfl : q = frame i := Option.some.inj (hq.symm.trans hreq)
  obtain ⟨res, hres, -⟩ := deframe_of_shape (E := E) i d hs
  simp [hres]

/-- Settles O58: the latched command of a BUSY block decodes every answer of its request's shape, so only a wrong shape and a
Caller's read are left. -/
theorem faultsComeOnlyFromBreaches : Obligations.FaultsComeOnlyFromBreaches := by
  intro s t F hinv hfault h hF
  have hkept {G : Option Fault} (hG : G = s.fault) (h : G = some F) : False := by simp [hG, hfault] at h
  cases step_effect h with
  | misshapen ha hs =>
    cases hF
    exact .inl ⟨rfl, _, _, _, ha, hs⟩
  | misread _ hi hbad =>
    cases hF
    exact .inr ⟨rfl, _, by rw [hi]; rfl, hbad⟩
  | undecodable ha hc hs hd =>
    exact absurd hd (hinv.decodes ha hc hs)
  | unlatched ha hc =>
    obtain ⟨i, hcmd, -⟩ := hinv.command_of_busy ha.1
    simp [hc] at hcmd
  | reset => cases hF
  | cancelled => exact (hkept (by simp) hF).elim
  | _ => exact (hkept rfl hF).elim

/-! ### A whole command -/

/-- The response a command delivers for an answer of its request's shape, or an error (40 R83; 60 R114). -/
theorem respond_of_shape (i : Instr) (r : TRsp) (h : ∀ d, r = .ok d → shapeOK (frame i) d = true) :
    ∃ rsp : Rsp, rsp.Shaped ∧ ∀ s : State, ∃ stage,
      s.respond (frame i) (deframe i) r = { s with rsp := rsp, stage := stage, treq := none, fsm := .done } := by
  cases r with
  | err e => exact ⟨.error e, Rsp.error_shaped e, fun s => ⟨s.stage, rfl⟩⟩
  | ok d =>
    obtain ⟨res, hres, hshaped, -⟩ := deframe_of_shape (E := TransportError) i d (h d rfl)
    exact ⟨res.rsp, hshaped, fun s => ⟨res.stage.getD s.stage, State.respond_ok (h d rfl) hres⟩⟩

/-- The step at an answer in BUSY, where the latched operands hold command `i` (10_state R37). -/
theorem step_answer {s : State} {i : Instr} {q : TReq} {r : TRsp} {rest : List Input} (h : s.Answered q r rest)
    (hc : s.opr.command = some i) : step s = .next (s.dropInput.respond q (deframe i) r) := by
  obtain ⟨hf, hm, hq, hi⟩ := id h
  have hn := State.nextMove_unmarked (s := s) (by simp [hi]) hm.marked
  rw [State.ordinaryMove_answer (State.acceptable_of_not_idle (by simp [hf])) hi] at hn
  rw [step_run (i := i) (by simp [hn, State.answerMove, hf, hq, hc]), exec_answer h]

/-- The step at Ack in DONE (10_state R38). -/
theorem step_ack {s : State} {rest : List Input} (hf : s.fsm = .done) (hm : s.Unmarked) (hi : s.inputs = .ack :: rest) :
    step s = .next (s.dropInput.observe (.response s.rsp)).clearCommand := by
  have ha : s.acceptable = none := State.acceptable_of_not_idle (by simp [hf])
  rw [step_input ha hm hi nofun nofun]
  exact congrArg _ (State.ack_done (s := s.dropInput) hf)

/-- A run goes on from the state its first step leads to. -/
theorem run_succ_of_next {M : Host.Core} {s t : M.State} (h : M.step s = .next t) (k : Nat) : M.run (k + 1) s = M.run k t := by
  rw [Host.Core.run, h]

/-- Settles O59: the command is issued, its answer decoded by the latched command, and the response delivered. -/
theorem commandRunsFromPresentationToDelivery : Obligations.CommandRunsFromPresentationToDelivery := by
  intro c i r hdec hshape
  obtain ⟨rsp, hshaped, hrespond⟩ := respond_of_shape i r hshape
  refine ⟨rsp, hshaped, fun s rest hinv hf hm hwf hport hi => ⟨none, ?_⟩⟩
  have henc := encodable_of_wf hwf
  have hnone : s.treq = none := by
    simpa [hf] using hinv.requestIffBusy
  obtain ⟨hopr, hstage, hrsp⟩ := hinv.idleClear hf
  have hissue : step s = .next (s.issue (latch (encode i)) (frame i)) := by
    rw [step_accept hf hm (by simp [hi]) hport, hdec]
    exact exec_issue hf hm (operandCheck_none_iff.mpr hwf)
  have hans : (s.issue (latch (encode i)) (frame i)).Answered (frame i) r (.ack :: rest) := ⟨rfl, hm, rfl, hi⟩
  have hanswer := step_answer hans (command_latch_encode henc)
  obtain ⟨stage, hdone⟩ := hrespond (s.issue (latch (encode i)) (frame i)).dropInput
  rw [hdone] at hanswer
  have hack := step_ack (rest := rest) (s := { (s.issue (latch (encode i)) (frame i)).dropInput with
    rsp := rsp, stage := stage, treq := none, fsm := .done }) rfl hm (by simp [hi])
  rw [run_succ_of_next (M := Sys2Proof.core) hissue, run_succ_of_next (M := Sys2Proof.core) hanswer,
    run_succ_of_next (M := Sys2Proof.core) hack, latch_encode_of_decode hdec henc]
  simp [Host.Core.run, State.clearCommand, State.observe, State.dropInput, State.issue, hi, hnone, hopr, hstage, hrsp, hf]

end Sys2Proof.Machine
end

section
/-! SUPPORT. Every step keeps the state invariant and the log invariant, and the reset state meets both (10_state R25 to R43;
20_memory R58, R61). -/

namespace Sys2Proof.Machine

/-! ### Withdrawing a request -/

@[simp] theorem State.withdrawRequest_treq {E : Type} (s : State E) : s.withdrawRequest.treq = none := by
  cases hq : s.treq with
  | none => rw [State.withdrawRequest_none hq, hq]
  | some q => rw [State.withdrawRequest_some hq]

@[simp] theorem State.withdrawRequest_refused {E : Type} (s : State E) : s.withdrawRequest.refused = s.refused := by
  unfold State.withdrawRequest; split <;> rfl

@[simp] theorem State.withdrawRequest_cmdPort {E : Type} (s : State E) : s.withdrawRequest.cmdPort = s.cmdPort := by
  unfold State.withdrawRequest; split <;> rfl

/-! ### The state invariant -/

/-- The invariant does not look at the ports, the inputs, the log or what the Caller has read. -/
theorem State.Inv.withPorts {s : State} (h : s.Inv) (port : Option Cmd) (withdrawn : Option TReq) (log : List PortEvent)
    (reads : List RspValue) (inputs : List Input) :
    ({ s with cmdPort := port, withdraw := withdrawn, treqLog := log, callerReads := reads, inputs := inputs } : State).Inv :=
  { h with }

/-- Taking an input keeps the invariant. -/
theorem State.Inv.dropInput {s : State} (h : s.Inv) : s.dropInput.Inv := h.withPorts _ _ _ _ _

/-- The reset state of a machine with positive parameters meets the invariant (10_state R43). -/
theorem State.inv_resetWith {p : Params} (hp : p.Positive) : (State.resetWith p : State).Inv where
  requestIffBusy := by simp
  idleClear _ := ⟨rfl, rfl, rfl⟩
  latched hf := absurd rfl hf
  busyClear := by simp
  doneShaped := by simp
  stageWhole := .inl rfl
  refusedIdle _ := rfl
  oneMark := by simp
  positive := hp
  obsShaped := by simp

/-- A fault keeps the invariant where no refusal is recorded (60_exceptions R120). -/
theorem State.Inv.raiseFault {s : State} (h : s.Inv) (hm : s.Unmarked) (F : Fault) : (s.raiseFault F).Inv :=
  { h with oneMark := by simp [hm.2] }

/-- A refusal in IDLE keeps the invariant where no fault is recorded (60_exceptions R121). -/
theorem State.Inv.refuse {s : State} (h : s.Inv) (hm : s.Unmarked) (hf : s.fsm = .idle) (F : RefuseReason) :
    (s.refuse F).Inv :=
  { h with
    refusedIdle := fun _ => hf
    oneMark := by simp [hm.1] }

/-- The Issue of a command within limits keeps the invariant (10_state R36). -/
theorem State.Inv.issue {s : State} {i : Instr} (h : s.Inv) (hm : s.Unmarked) (hwf : i.wf s.params = true) :
    (s.issue (latch (encode i)) (frame i)).Inv where
  requestIffBusy := by simp
  idleClear := nofun
  latched _ := ⟨i, hwf, rfl, fun _ => rfl⟩
  busyClear _ := ⟨rfl, rfl⟩
  doneShaped := nofun
  stageWhole := .inl rfl
  refusedIdle hr := by simp [hm.2] at hr
  oneMark := h.oneMark
  positive := h.positive
  obsShaped := h.obsShaped

/-- The end of the Transport's answer, with a response of the shape of its kind, keeps the invariant (10_state R37). -/
theorem State.Inv.answered {s : State} {rsp : Rsp} {stage : Cells} (h : s.Inv) (hm : s.Unmarked) (hf : s.fsm ≠ .idle)
    (hrsp : rsp.Shaped) (hstage : stage = Cells.bottom ∨ ∀ k : Fin 32, (stage[k.val]).isSome) :
    ({ s with rsp := rsp, stage := stage, treq := none, fsm := .done } : State).Inv where
  requestIffBusy := by simp
  idleClear := nofun
  latched _ := by
    obtain ⟨i, hwf, hopr, -⟩ := h.latched hf
    exact ⟨i, hwf, hopr, nofun⟩
  busyClear := nofun
  doneShaped _ := hrsp
  stageWhole := hstage
  refusedIdle hr := by simp [hm.2] at hr
  oneMark := h.oneMark
  positive := h.positive
  obsShaped := h.obsShaped

/-- The end of a command leaves a state that meets the invariant, where nothing is outstanding (10_state R38, R39). -/
theorem State.inv_clearCommand {s : State} (hq : s.treq = none) (hmark : ¬(s.fault.isSome ∧ s.refused.isSome))
    (hp : s.params.Positive) (hobs : ∀ e ∈ s.obs, ∀ r, e.ending = .response r → r.Shaped) : s.clearCommand.Inv where
  requestIffBusy := by simp [hq]
  idleClear _ := ⟨rfl, rfl, rfl⟩
  latched hf := absurd rfl hf
  busyClear := nofun
  doneShaped := nofun
  stageWhole := .inl rfl
  refusedIdle _ := rfl
  oneMark := hmark
  positive := hp
  obsShaped := hobs

/-- A pair whose response has the shape of its kind may be recorded. -/
theorem State.Inv.obsShaped_observe {s : State} {ending : CmdEnd} (h : s.Inv) (he : ∀ r, ending = .response r → r.Shaped) :
    ∀ e ∈ (s.observe ending).obs, ∀ r, e.ending = .response r → r.Shaped := by
  intro e hmem
  rw [State.observe_obs, List.mem_append, List.mem_singleton] at hmem
  rcases hmem with hold | rfl
  · exact h.obsShaped e hold
  · exact he

/-- Delivering the response of a command in DONE keeps the invariant (10_state R38). -/
theorem State.Inv.deliver {s : State} (h : s.Inv) (hf : s.fsm = .done) : (s.observe (.response s.rsp)).clearCommand.Inv := by
  have hq : s.treq = none := by simpa [hf] using h.requestIffBusy
  refine State.inv_clearCommand hq h.oneMark h.positive (h.obsShaped_observe ?_)
  rintro r ⟨⟩
  exact h.doneShaped hf

/-- Cancelling a command keeps the invariant (10_state R39). -/
theorem State.Inv.cancelCommand {s : State} (h : s.Inv) : (s.observe .cancelled).withdrawRequest.clearCommand.Inv := by
  refine State.inv_clearCommand (by simp) (by simpa using h.oneMark) (by simpa using h.positive) ?_
  rw [State.withdrawRequest_obs]
  exact h.obsShaped_observe nofun

/-- In BUSY the request outstanding is the latched command's. -/
theorem State.Inv.request_of_command {s : State} {q : TReq} {i : Instr} (h : s.Inv) (hf : s.fsm = .busy) (hq : s.treq = some q)
    (hc : s.opr.command = some i) : q = frame i := by
  obtain ⟨j, hcmd, hreq⟩ := h.command_of_busy hf
  obtain rfl : i = j := Option.some.inj (hc.symm.trans hcmd)
  exact Option.some.inj (hq.symm.trans hreq)

/-- A successful answer decoded by the latched command keeps the invariant (10_state R37; 41_smbus_block R99). -/
theorem State.Inv.finish {s : State} {q : TReq} {d : ReadData} {rest : List Input} {i : Instr} {res : Result} (h : s.Inv)
    (ha : s.Answered q (.ok d) rest) (hc : s.opr.command = some i) (hs : shapeOK q d = true) (hd : deframe i d = some res) :
    (s.dropInput.finish res).Inv := by
  obtain ⟨hf, hm, hq, -⟩ := ha
  obtain rfl := h.request_of_command hf hq hc
  obtain ⟨res', hres, hshaped, -, hstage, -⟩ := deframe_of_shape (E := TransportError) i d hs
  obtain rfl : res = res' := Option.some.inj (hd.symm.trans hres)
  refine h.dropInput.answered hm (by simp [hf]) hshaped ?_
  rcases hstage with hnone | ⟨cells, hcells, hwhole⟩
  · rw [hnone]; exact h.stageWhole
  · rw [hcells]; exact .inr hwhole

/-- Settles O56: each effect of a step keeps the invariant. -/
theorem everyStepKeepsTheInvariant : Obligations.EveryStepKeepsTheInvariant := by
  intro s t hinv h
  cases step_effect h with
  | reset => exact (State.inv_resetWith hinv.positive).withPorts _ _ _ _ _
  | passed => exact hinv.dropInput
  | waited => exact hinv
  | issued hm _ _ _ hcheck => exact hinv.issue hm (operandCheck_none_iff.mp hcheck)
  | refused hm hf => exact hinv.refuse hm hf _
  | failed ha => exact hinv.dropInput.answered ha.2.1 (by simp [ha.1]) (Rsp.error_shaped _) hinv.stageWhole
  | finished ha hc hs hd => exact hinv.finish ha hc hs hd
  | misshapen ha => exact hinv.dropInput.raiseFault ha.2.1 _
  | undecodable ha => exact hinv.dropInput.raiseFault ha.2.1 _
  | unlatched ha => exact hinv.dropInput.raiseFault ha.2.1 _
  | unasked => exact hinv.dropInput
  | presented => exact hinv.withPorts _ _ _ _ _
  | delivered _ _ hf => exact hinv.dropInput.deliver hf
  | cancelled => exact hinv.dropInput.cancelCommand
  | read => exact hinv.withPorts _ _ _ _ _
  | misread hm => exact hinv.dropInput.raiseFault hm _
  | noEffect => exact hinv.dropInput

/-! ### The log invariant -/

@[simp] theorem requestsIssued_append (log log' : List PortEvent) :
    requestsIssued (log ++ log') = requestsIssued log ++ requestsIssued log' := by
  induction log with
  | nil => rfl
  | cons e log ih => cases e <;> simp [requestsIssued, ih]

@[simp] theorem requestsWithdrawn_append (log log' : List PortEvent) :
    requestsWithdrawn (log ++ log') = requestsWithdrawn log ++ requestsWithdrawn log' := by
  induction log with
  | nil => rfl
  | cons e log ih => cases e <;> simp [requestsWithdrawn, ih]

/-- In IDLE every command accepted has ended. -/
theorem State.commandsAccepted_idle {s : State} (hf : s.fsm = .idle) : s.commandsAccepted = s.obs.map ObsEntry.cmd := by
  simp [State.commandsAccepted, hf]

/-- Outside IDLE the latched command is the last one accepted. -/
theorem State.commandsAccepted_not_idle {s : State} (hf : s.fsm ≠ .idle) :
    s.commandsAccepted = s.obs.map ObsEntry.cmd ++ [s.opr] := by
  cases h : s.fsm with
  | idle => exact absurd h hf
  | busy => simp [State.commandsAccepted, h]
  | done => simp [State.commandsAccepted, h]

/-- The log invariant looks only at the observation, the latched operands, and whether the block is IDLE. -/
theorem State.LogInv.congr {s t : State} (h : s.LogInv) (hfsm : t.fsm = .idle ↔ s.fsm = .idle) (hopr : t.opr = s.opr)
    (hobs : t.obs = s.obs) (hlog : t.treqLog = s.treqLog) : t.LogInv := by
  have hacc : t.commandsAccepted = s.commandsAccepted := by
    by_cases hf : s.fsm = .idle
    · rw [State.commandsAccepted_idle hf, State.commandsAccepted_idle (hfsm.mpr hf), hobs]
    · rw [State.commandsAccepted_not_idle hf, State.commandsAccepted_not_idle (mt hfsm.mp hf), hobs, hopr]
  have hcan : t.commandsCancelled = s.commandsCancelled := by rw [State.commandsCancelled, hobs]; rfl
  exact ⟨by rw [hlog, hacc, h.issued], by rw [hlog, hcan, h.withdrawn]⟩

/-- The empty log of a new run (70 R130). -/
theorem State.logInv_of_empty {s : State} (hf : s.fsm = .idle) (hobs : s.obs = []) (hlog : s.treqLog = []) : s.LogInv where
  issued := by simp [State.commandsAccepted_idle hf, hobs, hlog, requestsIssued]
  withdrawn := by simp [State.commandsCancelled, hobs, hlog, requestsWithdrawn]

/-- Issue records the request of the command it latches (10_state R36; 20_memory R58). -/
theorem State.LogInv.issue {s : State} {i : Instr} (h : s.LogInv) (hf : s.fsm = .idle) (hi : i.encodable = true) :
    (s.issue (latch (encode i)) (frame i)).LogInv where
  issued := by
    have hreq : (latch (encode i)).request = some (frame i) := by rw [Opr.request, command_latch_encode hi]; rfl
    rw [State.commandsAccepted_not_idle (by simp)]
    simp [requestsIssued, h.issued, State.commandsAccepted_idle hf, hreq]
  withdrawn := by
    simp [requestsWithdrawn, h.withdrawn, State.commandsCancelled]

/-- Ack records the pair of a command whose request is in the log already (10_state R38). -/
theorem State.LogInv.deliver {s : State} {r : Rsp} (h : s.LogInv) (hf : s.fsm ≠ .idle) :
    (s.observe (.response r)).clearCommand.LogInv where
  issued := by
    rw [State.commandsAccepted_idle (by simp)]
    simp [h.issued, State.commandsAccepted_not_idle hf]
  withdrawn := by
    simp [h.withdrawn, State.commandsCancelled]

/-- Cancel records the pair of the command and the withdrawal of its request (10_state R39). -/
theorem State.LogInv.cancelCommand {s : State} (h : s.LogInv) (hinv : s.Inv) (hf : s.fsm = .busy) :
    (s.observe .cancelled).withdrawRequest.clearCommand.LogInv := by
  obtain ⟨i, hcmd, hq⟩ := hinv.command_of_busy hf
  have hreq : s.opr.request = some (frame i) := by rw [Opr.request, hcmd]; rfl
  rw [State.withdrawRequest_some (q := frame i) (by simpa using hq)]
  constructor
  · rw [State.commandsAccepted_idle (by simp)]
    simp [requestsIssued, h.issued, State.commandsAccepted_not_idle (s := s) (by simp [hf])]
  · simp [requestsWithdrawn, h.withdrawn, State.commandsCancelled, hreq]

/-- Settles O57: a request is recorded by Issue, a withdrawal by Cancel, and the pairs of the observation keep their commands. -/
theorem everyCommandIssuesExactlyOneRequest : Obligations.EveryCommandIssuesExactlyOneRequest := by
  intro s t hinv hlog h
  cases step_effect h with
  | reset => exact State.logInv_of_empty rfl rfl rfl
  | issued _ hf _ _ hcheck => exact hlog.issue hf (encodable_of_wf (operandCheck_none_iff.mp hcheck))
  | failed ha => exact hlog.congr (by simp [ha.1]) rfl rfl rfl
  | finished ha => exact hlog.congr (by simp [ha.1]) rfl rfl rfl
  | delivered _ _ hf => exact State.LogInv.deliver (s := s.dropInput) (hlog.congr .rfl rfl rfl rfl) (by simp [hf])
  | cancelled _ _ hf => exact State.LogInv.cancelCommand (hlog.congr .rfl rfl rfl rfl) hinv.dropInput hf
  | _ => exact hlog.congr .rfl rfl rfl rfl

/-- Settles O55: the reset state meets the invariant and its log is empty. -/
theorem invariantsHoldAtReset : Obligations.InvariantsHoldAtReset := by
  have hall (p : Params) (hp : p.Positive) : (State.resetWith p : State).Inv ∧ (State.resetWith p : State).LogInv :=
    ⟨State.inv_resetWith hp, State.logInv_of_empty rfl rfl rfl⟩
  obtain ⟨hinv, hlog⟩ := hall Config.resetParams (by decide)
  exact ⟨hinv, hlog, hall⟩

end Sys2Proof.Machine
end

section
/-! SUPPORT. Acceptance: what a decoded command keeps of the presented one, admission (30_encoding R75) against the decoder and the
commands' own checks, and the steps that run a command (10_state R28, R29, R36, R37;
70 R135). -/

namespace Sys2Proof.Machine

/-! ### The presented command and the command decoded -/

/-- A presented word that decodes denotes a command that can be encoded. -/
theorem encodable_of_decode {c : Cmd} {i : Instr} (h : decode c = .ok i) : i.encodable = true := by
  rw [encodable_iff]
  cases hop : isBlockWriteOp i.opcode with
  | true =>
    rw [← (operands_of_decode h).2.1 hop, blockData_length]
    omega
  | false => simp [data_of_not_block hop]

/-- Settles O3: the presented word, block data and descriptor are the command's. -/
theorem decodedCommandKeepsItsWord : Obligations.DecodedCommandKeepsItsWord := by
  intro c i h
  have henc := encodable_of_decode h
  obtain ⟨hcw, -⟩ := operands_of_decode h
  exact ⟨hcw.symm, latch_encode_of_decode h henc, henc⟩

/-- Settles O27: the latched encoding is read back by the decoder. -/
theorem latchedCommandReadsBack : Obligations.LatchedCommandReadsBack :=
  fun _ h => command_latch_encode h

/-! ### Admission (30_encoding R75) -/

/-- Admission begins with the checks of the word alone; the checks of the descriptor come after them. -/
theorem admission_eq (p : Params) (c : Cmd) : admission p c = (wordRefusal c.cw).or
    (if isPassthroughOp (opField c.cw) ∧ shapeFitsOp (opField c.cw) c.ptd = false then some .ptShape
     else if isPassthroughOp (opField c.cw) ∧ exceedsLimits p c.ptd then some .ptSize else none) := by
  unfold admission wordRefusal
  split_ifs <;> rfl

/-- The descriptor of a command has its opcode's shape exactly where the opcode is a passthrough command's. -/
theorem shapeFitsOp_desc (i : Instr) : shapeFitsOp i.opcode i.desc = isPassthroughOp i.opcode := by
  cases i <;> rfl

/-- Past the word's checks, only a descriptor of the wrong shape keeps a word from decoding. -/
theorem ptShape_of_decodeOperands {c : Cmd} {F : RefuseReason} (hop : opField c.cw ≠ 0xF)
    (h : decodeOperands c = .error F) :
    F = .ptShape ∧ isPassthroughOp (opField c.cw) = true ∧ shapeFitsOp (opField c.cw) c.ptd = false := by
  unfold decodeOperands at h
  split at h
  case h_12 ho | h_13 ho | h_14 ho | h_15 ho =>
    have hfield := opField_eq_of_toNat ho
    rcases hd : c.ptd with _ | (_ | _ | _ | _) <;> simp_all [isPassthroughOp, shapeFitsOp]
  case h_16 =>
    have hlt := (opField c.cw).isLt
    have ho : (opField c.cw).toNat = 15 := by simp only [imp_false] at *; omega
    exact absurd (opField_eq_of_toNat ho) hop
  all_goals cases h

/-- The size check of a descriptor is the last check of admission (30_encoding R75). -/
theorem sizeCheck_eq (p : Params) (desc : PTDesc) :
    sizeCheck p desc = if exceedsLimits p (some desc) then some .ptSize else none := by
  cases hfits : desc.fits p <;> simp [sizeCheck, exceedsLimits, hfits]

/-- A command's own check is the size check of its descriptor, where its block data fit (30_encoding R75). -/
theorem operandCheck_of_encodable {p : Params} {i : Instr} (h : i.encodable = true) :
    operandCheck p i = if isPassthroughOp i.opcode ∧ exceedsLimits p i.desc then some .ptSize else none := by
  cases i with
  | blockWrite addr reg data => exact if_pos h
  | blockProcCall addr reg data => exact if_pos h
  | i2cRead | i2cWrite | i2cWriteRead | i2cTxn =>
    simp [operandCheck, sizeCheck_eq, Instr.desc, Instr.opcode, isPassthroughOp]
  | _ => rfl

/-- Where the decoder refuses, admission refuses with the same reason. -/
theorem admission_of_decode_error {p : Params} {c : Cmd} {F : RefuseReason} (h : decode c = .error F) :
    admission p c = some F := by
  rw [admission_eq]
  unfold decode at h
  split at h
  case h_1 reason hw =>
    cases h
    rw [hw, Option.some_or]
  case h_2 hw =>
    obtain ⟨rfl, hpt, hshape⟩ := ptShape_of_decodeOperands ((wordRefusal_none_iff _).mp hw).1 h
    rw [hw, if_pos ⟨hpt, hshape⟩, Option.none_or]

/-- Where the decoder accepts, admission is the decoded command's own check. -/
theorem admission_of_decode_ok {p : Params} {c : Cmd} {i : Instr} (h : decode c = .ok i) :
    admission p c = operandCheck p i := by
  obtain ⟨hword, -⟩ := (decode_ok_iff c i).mp h
  obtain ⟨hop, -⟩ := (decode_iff c i).mp h
  rw [admission_eq, hword, Option.none_or, operandCheck_of_encodable (encodable_of_decode h), hop]
  cases hpt : isPassthroughOp i.opcode with
  | true => simp [(operands_of_decode h).2.2 hpt, shapeFitsOp_desc, hpt]
  | false => simp

/-! ### The step at a presented command -/

/-- A command within limits is issued (10_state R36). -/
theorem exec_issue_of_wf {s : State} {i : Instr} (hf : s.fsm = .idle) (hm : s.Unmarked) (hwf : i.wf s.params = true) :
    exec i s = .next (s.issue (latch (encode i)) (frame i)) :=
  exec_issue hf hm (operandCheck_none_iff.mpr hwf)

/-- Settles O25, from the step at a presented command. -/
theorem stepRunsThePresentedCommand : Obligations.StepRunsThePresentedCommand := by
  intro s c i hf hm hr hp hd
  rw [step_accept hf hm hr hp, hd]

/-- Settles O28: admission is the decoder's refusal or the command's own, and a command admitted is latched as presented. -/
theorem acceptanceFollowsAdmission : Obligations.AcceptanceFollowsAdmission := by
  intro s c hf hm hr hp
  rw [step_accept hf hm hr hp]
  cases hd : decode c with
  | error G =>
    rw [admission_of_decode_error hd]
    exact ⟨fun F hF => ⟨none, by cases hF; rfl⟩, nofun⟩
  | ok i =>
    rw [admission_of_decode_ok hd]
    refine ⟨fun F hF => ⟨none, exec_refuse hf hm hF⟩, fun hok => ?_⟩
    have hwf := operandCheck_none_iff.mp hok
    refine ⟨i, none, rfl, hwf, ?_⟩
    rw [← latch_encode_of_decode hd (encodable_of_wf hwf)]
    exact exec_issue_of_wf hf hm hwf

/-- The opcodes from 0xB on are the passthrough commands', but for the reserved one (30_encoding R69). -/
theorem isPassthroughOp_iff : ∀ op : BitVec 4, op ≠ 0xF → (isPassthroughOp op = true ↔ 0xB ≤ op.toNat) := by
  decide

/-- A cell of the block data is the caller's byte below `LEN`, and none from there on (10_state R28). -/
theorem blockData_cell (c : Cmd) (k : Fin 32) :
    (blockData c)[k.val]? = if k.val < (lenField c.cw).toNat then some c.wb[k.val] else none := by
  rw [blockData, List.getElem?_take]
  simp

/-- Settles O29: an accepted command latches what is latched of the presented one, cell by cell. -/
theorem operandsLatchedAtAcceptance : Obligations.OperandsLatchedAtAcceptance := by
  intro c i s hd hf hm hwf
  have hpt := isPassthroughOp_iff (opField c.cw) (by rw [((decode_iff c i).mp hd).1]; exact opcode_ne_reserved i)
  refine ⟨_, exec_issue_of_wf hf hm hwf, rfl, ?_⟩
  rw [State.issue_opr, latch_encode_of_decode hd (encodable_of_wf hwf)]
  refine ⟨rfl, fun hop k => ?_, fun h9 hA k => ?_, fun hB => if_pos (hpt.mpr hB), fun hB => if_neg (mt hpt.mp (by omega))⟩
  · have hblock : isBlockWriteOp (opField c.cw) = true := by simpa [isBlockWriteOp] using hop
    rw [latch, if_pos hblock, cellsOf_cell]
    exact blockData_cell c k
  · have hblock : ¬isBlockWriteOp (opField c.cw) = true := by simpa [isBlockWriteOp] using ⟨h9, hA⟩
    rw [latch, if_neg hblock, bottom_cell]

/-- Outside IDLE no step but a Reset touches a command on the port, nor the latched operands while the block stays outside IDLE
(70 R135). -/
theorem State.Effect.port_waits {s t : State} {c : Cmd} (h : s.Effect t) (hf : s.fsm ≠ .idle) (hp : s.cmdPort = some c)
    (hr : s.inputs.head? ≠ some .reset) : t.cmdPort = some c ∧ (t.fsm ≠ .idle → t.opr = s.opr) := by
  cases h with
  | reset hi => simp [hi] at hr
  | issued _ hidle => exact absurd hidle hf
  | refused _ hidle => exact absurd hidle hf
  | presented _ _ hfree => simp [hp] at hfree
  | delivered => exact ⟨hp, fun hn => absurd rfl hn⟩
  | cancelled => exact ⟨by simpa using hp, fun hn => absurd rfl hn⟩
  | _ => exact ⟨hp, fun _ => rfl⟩

/-- Settles O31: no effect outside IDLE takes the command, presenting fills the free port, and acceptance or refusal frees it. -/
theorem presentedCommandWaitsUntilIdle : Obligations.PresentedCommandWaitsUntilIdle := by
  refine ⟨fun s t c hf hp hr h => (step_effect h).port_waits hf hp hr, fun s c rest hm hp hi => ?_, fun s c hf hm hp hr => ?_⟩
  · rw [step_input (State.acceptable_of_port_free hp) hm hi nofun nofun]
    rw [State.takeInput, State.present_free (s := s.dropInput) hp, State.dropInput_eq hi]
  · rw [step_accept hf hm hr hp]
    cases decode c with
    | error F => exact ⟨_, rfl, rfl, .inr nofun⟩
    | ok i =>
      cases hcheck : operandCheck s.params i with
      | none => exact ⟨_, exec_issue hf hm hcheck, rfl, .inl rfl⟩
      | some F => exact ⟨_, exec_refuse hf hm hcheck, rfl, .inr nofun⟩

/-! ### The step at an answer -/

/-- Settles O26: the step at an answer responds with the latched command's deframe, and so does `exec`. -/
theorem stepRunsTheLatchedCommand : Obligations.StepRunsTheLatchedCommand := by
  intro s q r rest i ha hc
  rw [step_answer ha hc, exec_answer ha]

end Sys2Proof.Machine
end

section
/-! SUPPORT. The controller's acts, Ack, Cancel, Reset and the marks (10_state R25, R31, R34, R38 to R43), and what every step may
write: the requests issued, `STAGE` and the status flag (20_memory R59; 10_state R32, R33). -/

namespace Sys2Proof.Machine

/-! ### Codes and reset values -/

/-- Settles O43: a field reads as the value it holds, and each result kind as its code. -/
theorem responseFieldsReadTheirValues : Obligations.ResponseFieldsReadTheirValues := by
  refine ⟨fun r => ⟨rfl, rfl, rfl, rfl, rfl, rfl, fun _ => rfl⟩, fun r => ?_⟩
  have hkind : r.field .rkind = r.rkind.map fun k => .kind k.code := rfl
  refine ⟨?_, ?_, ?_, ?_, ?_, ?_⟩ <;> intro h <;> rw [hkind, h] <;> rfl

/-- Settles O46, each register of the reset state by its value. -/
theorem resetValues : Obligations.ResetValues :=
  ⟨rfl, rfl, rfl, rfl, rfl, rfl, rfl, rfl, rfl, rfl, rfl⟩

/-- Settles O47, for each of the three controller states. -/
theorem controllerCodesAndIndications : Obligations.ControllerCodesAndIndications := by
  refine ⟨fun s => ?_, fun s => ⟨beq_iff_eq, beq_iff_eq⟩⟩
  cases s.fsm <;> decide

/-! ### Ack, Cancel and Reset -/

/-- Settles O38, from the step at Ack in DONE. -/
theorem ackDeliversAndClears : Obligations.AckDeliversAndClears := by
  intro s rest hf hm hi
  rw [step_ack hf hm hi, State.dropInput_eq hi]
  rfl

/-- Nothing is accepted outside IDLE, nor in IDLE with a free port (10_state R36). -/
theorem State.acceptable_none {s : State} (h : s.fsm = .idle → s.cmdPort = none) : s.acceptable = none := by
  by_cases hf : s.fsm = .idle
  · exact State.acceptable_of_port_free (h hf)
  · exact State.acceptable_of_not_idle hf

/-- Settles O39: the act takes its turn, and outside DONE it is not enabled. -/
theorem ackOutsideDoneHasNoEffect : Obligations.AckOutsideDoneHasNoEffect := by
  intro s rest hf hm hi
  have hport : s.fsm = .idle → s.cmdPort = none := by rcases hf with hf | ⟨-, hp⟩ <;> simp_all
  have hdone : s.dropInput.fsm ≠ .done := by rcases hf with hf | ⟨hf, -⟩ <;> simp [hf]
  rw [step_input (State.acceptable_none hport) hm hi nofun nofun, State.takeInput, State.ack_other hdone,
    State.dropInput_eq hi]

/-- The step at Cancel in BUSY, with a request outstanding (10_state R39). -/
theorem step_cancel {s : State} {q : TReq} {rest : List Input} (hf : s.fsm = .busy) (hq : s.treq = some q) (hm : s.Unmarked)
    (hi : s.inputs = .cancel :: rest) :
    step s = .next { s with
      inputs := rest, obs := s.obs ++ [⟨s.opr, .cancelled⟩], treq := none, withdraw := some q,
      treqLog := s.treqLog ++ [.withdrawn q], opr := Opr.bottom, stage := Cells.bottom, rsp := Rsp.bottom, fsm := .idle } := by
  have ha : s.acceptable = none := State.acceptable_of_not_idle (by simp [hf])
  rw [step_input ha hm hi nofun nofun, State.takeInput, State.cancel_busy (s := s.dropInput) hf,
    State.withdrawRequest_some (q := q) (by simpa using hq), State.dropInput_eq hi]
  rfl

/-- The step at Cancel outside BUSY, where nothing can be accepted (10_state R39; log 6). -/
theorem step_cancel_other {s : State} {rest : List Input} (hf : s.fsm ≠ .busy) (ha : s.acceptable = none) (hm : s.Unmarked)
    (hi : s.inputs = .cancel :: rest) : step s = .next { s with inputs := rest } := by
  rw [step_input ha hm hi nofun nofun, State.takeInput, State.cancel_other (s := s.dropInput) hf, State.dropInput_eq hi]

/-- Settles O40, from the step at Cancel in BUSY and elsewhere. -/
theorem cancelWithdrawsInBusyOnly : Obligations.CancelWithdrawsInBusyOnly := by
  refine ⟨fun s q rest hf hq hm hi => step_cancel hf hq hm hi, ?_⟩
  rintro s rest (⟨hf, hp⟩ | hf) hm hi
  · exact step_cancel_other (by simp [hf]) (State.acceptable_of_port_free hp) hm hi
  · exact step_cancel_other (by simp [hf]) (State.acceptable_of_not_idle (by simp [hf])) hm hi

/-- An answer that nothing asked for is dropped, where nothing can be accepted (log 7). -/
theorem step_unasked {s : State} {r : TRsp} {rest : List Input} (hf : s.fsm ≠ .busy) (ha : s.acceptable = none)
    (hm : s.Unmarked) (hi : s.inputs = .respond r :: rest) : step s = .next { s with inputs := rest } := by
  have hmove : s.answerMove = .become s.dropInput := by unfold State.answerMove; split <;> simp_all
  refine step_become ?_
  rw [State.nextMove_unmarked (by simp [hi]) hm.marked, State.ordinaryMove_answer ha hi, hmove, State.dropInput_eq hi]

/-- Settles O41: the answer first leads to DONE, where Cancel is not enabled; Cancel first leaves an answer nothing asked for. -/
theorem cancelAndRespondInEitherOrder : Obligations.CancelAndRespondInEitherOrder := by
  constructor
  · intro s q r rest hinv ha hshape
    obtain ⟨hf, hm, hq, hi⟩ := id ha
    obtain ⟨i, hcmd, hreq⟩ := hinv.command_of_busy hf
    obtain rfl : q = frame i := Option.some.inj (hq.symm.trans hreq)
    obtain ⟨rsp, -, hrespond⟩ := respond_of_shape i r hshape
    obtain ⟨stage, hdone⟩ := hrespond s.dropInput
    refine ⟨_, (step_answer ha hcmd).trans (congrArg _ hdone), rfl, ?_⟩
    exact step_cancel_other nofun (State.acceptable_of_not_idle nofun) hm (by simp [hi])
  · intro s q r rest hf hm hq hi
    refine ⟨_, step_cancel hf hq hm hi, rfl, rfl, rfl, rfl, rfl, rfl, fun c i hp hd => ?_, fun hp => ?_⟩
    · exact stepRunsThePresentedCommand _ c i rfl hm nofun hp hd
    · exact step_unasked nofun (State.acceptable_of_port_free hp) hm rfl

/-- Settles O45: Reset takes precedence in every state. -/
theorem resetFromEveryState : Obligations.ResetFromEveryState := by
  intro s rest hi
  exact ⟨_, step_reset (by simp [hi]), rfl, rfl, rfl, rfl, rfl, rfl, rfl, rfl, rfl, fun _ _ hq => hq⟩

/-- Settles O44: a marked machine drops every input but Reset, and no command has a move. -/
theorem marksDisableEveryStepButReset : Obligations.MarksDisableEveryStepButReset := by
  intro s h
  have hm : s.marked = true := by simpa [State.marked] using h
  refine ⟨fun hr => ⟨s.inputs.tail, step_become (State.nextMove_marked hr hm)⟩, fun i => ?_, fun rest hi => ?_⟩
  · rw [exec_eq_runCommand, runCommand_marked hm]
  · exact ⟨_, step_reset (by simp [hi]), rfl, rfl, rfl⟩

/-! ### What every step may write -/

/-- Cancelling issues no request. -/
theorem State.requestsIssued_withdrawRequest (s : State) :
    requestsIssued s.withdrawRequest.treqLog = requestsIssued s.treqLog := by
  rcases s.withdrawRequest_treqLog with h | ⟨q, h⟩
  · rw [h]
  · simp [h, requestsIssued]

/-- Settles O50: Issue alone appends a request, and Reset alone empties the log. -/
theorem requestsIssuedOnlyAtAcceptance : Obligations.RequestsIssuedOnlyAtAcceptance := by
  intro s t h
  cases step_effect h with
  | reset hi => exact .inr (.inr ⟨by rw [hi]; rfl, rfl⟩)
  | issued hm hf => exact .inr (.inl ⟨hf, hm, _, rfl, rfl, by simp [requestsIssued]⟩)
  | cancelled => exact .inl (State.requestsIssued_withdrawRequest _)
  | _ => exact .inl rfl

/-- A block result has status OK (41 R100). -/
theorem deframeBlock_stat {E : Type} {d : ReadData} {res : Result E} (h : deframeBlock d = some res) :
    res.rsp.rstat = some statOK := by
  unfold deframeBlock blockDecode at h
  split at h
  case h_1 r hr =>
    cases h
    split at hr <;> cases hr
    rfl
  case h_2 => cases h

/-- A byte result has status OK and leaves `STAGE` alone (40 R86). -/
theorem deframeByte_some {E : Type} {d : ReadData} {res : Result E} (h : deframeByte d = some res) :
    res.rsp.rstat = some statOK ∧ res.stage = none := by
  unfold deframeByte at h
  split at h <;> cases h
  exact ⟨rfl, rfl⟩

/-- A word result has status OK and leaves `STAGE` alone (40 R86). -/
theorem deframeWord_some {E : Type} {d : ReadData} {res : Result E} (h : deframeWord d = some res) :
    res.rsp.rstat = some statOK ∧ res.stage = none := by
  unfold deframeWord at h
  split at h <;> cases h
  exact ⟨rfl, rfl⟩

/-- Every result has status OK, whatever the shape of the answer, and only a block read writes `STAGE` (40 R86; 41 R99). -/
theorem deframe_some {E : Type} {i : Instr} {d : ReadData} {res : Result E} (h : deframe i d = some res) :
    res.rsp.rstat = some statOK ∧
      (res.stage = none ∨ (∃ addr reg, i = .blockRead addr reg) ∨ ∃ addr reg data, i = .blockProcCall addr reg data) := by
  cases i with
  | blockRead addr reg => exact ⟨deframeBlock_stat (d := d) h, .inr (.inl ⟨addr, reg, rfl⟩)⟩
  | blockProcCall addr reg data => exact ⟨deframeBlock_stat (d := d) h, .inr (.inr ⟨addr, reg, data, rfl⟩)⟩
  | recvByte | readByte => exact (deframeByte_some h).imp_right .inl
  | readWord | procCall => exact (deframeWord_some h).imp_right .inl
  | _ => obtain rfl := Option.some.inj h; exact ⟨rfl, .inl rfl⟩

/-- A step writes `STAGE` only where a block read's answer is decoded (10_state R33). -/
theorem State.Effect.stage_written {s t : State} (h : s.Effect t) : t.stage = s.stage ∨ t.stage = Cells.bottom ∨
    (s.fsm = .busy ∧ t.fsm = .done ∧ (∃ d, s.inputs.head? = some (.respond (.ok d))) ∧
      ((∃ addr reg, s.opr.command = some (.blockRead addr reg)) ∨
        ∃ addr reg data, s.opr.command = some (.blockProcCall addr reg data))) := by
  cases h with
  | @finished q d rest i res ha hc hs hd =>
    obtain ⟨-, hplain | hblock⟩ := deframe_some hd
    · exact .inl (by simp [hplain])
    · refine .inr (.inr ⟨ha.1, rfl, ⟨d, by rw [ha.2.2.2]; rfl⟩, ?_⟩)
      simpa [hc] using hblock
  | reset | issued | delivered | cancelled => exact .inr (.inl rfl)
  | _ => exact .inl rfl

/-- The step from IDLE to BUSY, and every step to IDLE from elsewhere, leaves `STAGE` without a value (10_state R33, R36, R38, R39). -/
theorem State.Effect.stage_cleared {s t : State} (h : s.Effect t)
    (hf : s.fsm = .idle ∧ t.fsm = .busy ∨ s.fsm ≠ .idle ∧ t.fsm = .idle) : t.stage = Cells.bottom := by
  have hsame (he : t.fsm = s.fsm) : False := by rcases hf with ⟨hs, ht⟩ | ⟨hs, ht⟩ <;> simp_all
  cases h with
  | reset | issued | delivered | cancelled => rfl
  | failed | finished => simp at hf
  | _ => exact (hsame rfl).elim

/-- Settles O51, from what a step writes to `STAGE` and where it clears it. -/
theorem stageWrittenOnlyByBlockReads : Obligations.StageWrittenOnlyByBlockReads := by
  intro s t h
  have he := step_effect h
  exact ⟨he.stage_written, fun hs ht => he.stage_cleared (.inl ⟨hs, ht⟩), fun hs ht => he.stage_cleared (.inr ⟨hs, ht⟩)⟩

/-- Settles O52: of the effects that write the response, the answer alone gives it a status. -/
theorem statusWrittenOnlyByResponse : Obligations.StatusWrittenOnlyByResponse := by
  intro s t h
  cases step_effect h with
  | failed ha => exact .inr (.inr ⟨ha.1, rfl, _, by rw [ha.2.2.2]; rfl, by simp, fun _ => rfl⟩)
  | finished ha _ _ hd => exact .inr (.inr ⟨ha.1, rfl, _, by rw [ha.2.2.2]; rfl, fun _ => (deframe_some hd).1, by simp⟩)
  | reset | issued | delivered | cancelled => exact .inr (.inl rfl)
  | _ => exact .inl rfl

end Sys2Proof.Machine
end

section
/-! SUPPORT. The transport contract: the shape an answer must have, the bytes a request moves, and the address that only passes
through (20_memory R44, R51, R57). -/

namespace Sys2Proof.Machine

/-! ### The address (20_memory R44) -/

/-- A request carries the address of its command's word. -/
theorem addr_frame (i : Instr) : TReq.addr (frame i) = addrField (encodeWord i) := by
  cases i with
  | quick addr flag => cases flag <;> simp [frame, frameQuick, TReq.addr, encodeWord]
  | _ => exact (addrField_packWord ..).symm

/-- The decoder refuses for the word's own form, or, past that, for a descriptor of another command's shape (30_encoding R75). -/
theorem decode_error_iff (c : Cmd) (F : RefuseReason) : decode c = .error F ↔ wordRefusal c.cw = some F ∨
    (wordRefusal c.cw = none ∧ F = .ptShape ∧ isPassthroughOp (opField c.cw) = true ∧
      shapeFitsOp (opField c.cw) c.ptd = false) := by
  cases hw : wordRefusal c.cw with
  | some G => simp [decode, hw]
  | none =>
    cases hd : decode c with
    | error G =>
      have hG : decodeOperands c = .error G := by simpa [decode, hw] using hd
      obtain ⟨rfl, hpt, hshape⟩ := ptShape_of_decodeOperands ((wordRefusal_none_iff _).mp hw).1 hG
      simp [hpt, hshape, eq_comm]
    | ok i =>
      obtain ⟨hop, -⟩ := (decode_iff c i).mp hd
      refine ⟨nofun, ?_⟩
      rintro (hF | ⟨-, -, hpt, hshape⟩)
      · cases hF
      · rw [hop] at hpt hshape
        rw [(operands_of_decode hd).2.2 hpt, shapeFitsOp_desc, hpt] at hshape
        cases hshape

/-- Settles O24: the request's address is the word's, and no check of the decoder reads it. -/
theorem addressForwardedUnchanged : Obligations.AddressForwardedUnchanged := by
  refine ⟨fun c i s hd hf hm hwf => ?_, fun c c' F hop hq hlen hlow hreg hd0 hd1 hhigh hptd => ?_⟩
  · refine ⟨_, frame i, exec_issue_of_wf hf hm hwf, rfl, ?_⟩
    rw [addr_frame, (operands_of_decode hd).1]
  · have hword : wordRefusal c.cw = wordRefusal c'.cw := by
      unfold wordRefusal unusedFieldSet
      rw [hop, hq, hlen, hlow, hreg, hd0, hd1, hhigh]
    rw [decode_error_iff, decode_error_iff, hword, hop, hptd]

/-! ### The shape of an answer (20_memory R57) -/

/-- An answer passes when it has as many parts as the request reads, each of the length asked for. -/
theorem shapeOK_iff_parts (q : TReq) (d : ReadData) : shapeOK q d = true ↔
    d.length = (readShape q).length ∧ ∀ k, k < d.length → d[k]?.map List.length = (readShape q)[k]? := by
  rw [shapeOK_iff]
  constructor
  · intro h
    simp [← h]
  · rintro ⟨hlen, hparts⟩
    refine List.ext_getElem?' fun k hk => ?_
    rw [List.getElem?_map]
    exact hparts k (by simpa [← hlen] using hk)

/-- Settles O22, from the read shape, its check part by part, and the exceptions every command takes. -/
theorem answerShapeCheck : Obligations.AnswerShapeCheck :=
  ⟨fun _ _ => rfl, fun _ _ => rfl, fun _ _ _ => rfl, fun _ segs => segReadShape_eq segs, shapeOK_iff_parts,
    fun i s q d rest => (takesExceptions i q).2 s rest d⟩

/-! ### The bytes on the bus (20_memory R51) -/

/-- The segments of a transaction write the bytes of their write segments. -/
theorem segsWritten_length (segs : List Seg) :
    (segsWritten segs).length = (segs.map fun | .write bs => bs.length | .read _ => 0).sum := by
  induction segs with
  | nil => rfl
  | cons seg segs ih => cases seg <;> simp [segsWritten, ih]

/-- The segments of a transaction read the bytes their read segments ask for. -/
theorem segReadShape_sum (segs : List Seg) :
    (segReadShape segs).sum = (segs.map fun | .write _ => 0 | .read n => n).sum := by
  induction segs with
  | nil => rfl
  | cons seg segs ih => cases seg <;> simp [segReadShape, ih]

/-- Settles O23: each command's request moves the bytes of its row; a block write's are the register, the prefix and the data. -/
theorem bytesEachCommandMoves : Obligations.BytesEachCommandMoves := by
  intro i _
  cases i with
  | quick addr flag => cases flag <;> rfl
  | blockWrite addr reg data | blockProcCall addr reg data =>
    simp [frame, frameBlockWrite, frameBlockProcCall, bytesWritten, bytesRead, readShape, segsWritten, segReadShape,
      regLength]
    omega
  | i2cTxn addr segs => exact congrArg₂ Prod.mk (segsWritten_length segs) (segReadShape_sum segs)
  | _ => rfl

end Sys2Proof.Machine
end

section
/-! SUPPORT. The command word: the round trip through the decoder, the opcode table as the decoder's own checks, and the inputs
a command ignores (30_encoding R67 to R76, R81). -/

namespace Sys2Proof.Machine

/-! ### The round trip -/

/-- Settles O2: the word's fields and the operands beside it are read back (`decode_encode`). -/
theorem encodedCommandDecodesToItself : Obligations.EncodedCommandDecodesToItself :=
  fun _ h => decode_encode h

/-- Settles O1, by computing the four words of 30_encoding R81. -/
theorem workedWordsDecode : Obligations.WorkedWordsDecode := by
  unfold Obligations.WorkedWordsDecode
  decide

/-! ### The opcode table (30_encoding R76) -/

section FieldsAnd
variable (a b : CmdWord)

@[simp] theorem opField_and : opField (a &&& b) = opField a &&& opField b := BitVec.extractLsb'_and
@[simp] theorem qField_and : qField (a &&& b) = qField a &&& qField b := BitVec.extractLsb'_and
@[simp] theorem lenField_and : lenField (a &&& b) = lenField a &&& lenField b := BitVec.extractLsb'_and
@[simp] theorem reservedLow_and : reservedLow (a &&& b) = reservedLow a &&& reservedLow b := BitVec.extractLsb'_and
@[simp] theorem addrField_and : addrField (a &&& b) = addrField a &&& addrField b := BitVec.extractLsb'_and
@[simp] theorem regField_and : regField (a &&& b) = regField a &&& regField b := BitVec.extractLsb'_and
@[simp] theorem d0Field_and : d0Field (a &&& b) = d0Field a &&& d0Field b := BitVec.extractLsb'_and
@[simp] theorem d1Field_and : d1Field (a &&& b) = d1Field a &&& d1Field b := BitVec.extractLsb'_and
@[simp] theorem reservedHigh_and : reservedHigh (a &&& b) = reservedHigh a &&& reservedHigh b := BitVec.extractLsb'_and

end FieldsAnd

/-- A word holds nothing but an opcode when every other field is zero (30_encoding R67). -/
theorem eq_packWord_opcode_iff (cw : CmdWord) (op : BitVec 4) : cw = packWord op 0 0 0 0 0 0 ↔
    opField cw = op ∧ reservedLow cw = 0 ∧ reservedHigh cw = 0 ∧ qField cw = 0 ∧ lenField cw = 0 ∧ regField cw = 0 ∧
      d0Field cw = 0 ∧ d1Field cw = 0 ∧ addrField cw = 0 := by
  constructor
  · rintro rfl
    simp
  · rintro ⟨hop, hlow, hhigh, hq, hlen, hreg, hd0, hd1, haddr⟩
    have hpack := packWord_fields cw hlow hhigh
    rw [hop, hq, hlen, hreg, hd0, hd1, haddr] at hpack
    exact hpack.symm

/-- What a row's mask holds in a field: zero where the opcode uses the field, ones where it does not. -/
def fieldMask (w : Nat) (used : Bool) : BitVec w := if used then 0 else BitVec.allOnes w

/-- A masked field is zero when the field is zero or used. -/
theorem and_fieldMask_eq_zero_iff {w : Nat} (x : BitVec w) (used : Bool) :
    x &&& fieldMask w used = 0 ↔ (used = false → x = 0) := by
  cases used <;> simp [fieldMask]

/-- The row fixes the opcode, and fixes at zero the reserved bits and every field that `u` does not use; the address is used in
every row. -/
def RowFixes (r : OpRow) (u : FieldUse) : Prop :=
  r.pattern = packWord (opField r.pattern) 0 0 0 0 0 0 ∧
  opField r.mask = BitVec.allOnes 4 ∧ reservedLow r.mask = BitVec.allOnes 1 ∧ reservedHigh r.mask = BitVec.allOnes 4 ∧
  qField r.mask = fieldMask 1 u.q ∧ lenField r.mask = fieldMask 6 u.len ∧ regField r.mask = fieldMask 8 u.reg ∧
  d0Field r.mask = fieldMask 8 u.d0 ∧ d1Field r.mask = fieldMask 8 u.d1 ∧ addrField r.mask = fieldMask 8 true

/-- A word belongs to such a row when it has the row's opcode and uses only the fields `u` uses. -/
theorem RowFixes.matches_iff {r : OpRow} {u : FieldUse} (h : RowFixes r u) (cw : CmdWord) :
    r.matches cw = true ↔ opField cw = opField r.pattern ∧ UsesOnly u cw := by
  obtain ⟨hpattern, hop, hlow, hhigh, hq, hlen, hreg, hd0, hd1, haddr⟩ := h
  rw [OpRow.matches, beq_iff_eq, hpattern, eq_packWord_opcode_iff, ← hpattern]
  simp only [opField_and, reservedLow_and, reservedHigh_and, qField_and, lenField_and, regField_and, d0Field_and,
    d1Field_and, addrField_and, hop, hlow, hhigh, hq, hlen, hreg, hd0, hd1, haddr, BitVec.and_allOnes,
    and_fieldMask_eq_zero_iff, Bool.true_eq_false, false_imp_iff, and_true, UsesOnly]

/-- Every row of the opcode table fixes at zero the fields that 30_encoding R70 marks `Z` for its opcode. -/
theorem rowFixes_of_mem : ∀ r ∈ opcodeTable, RowFixes r (fieldUse (opField r.pattern)) := by
  unfold RowFixes
  decide

/-- The rows have different opcodes. -/
theorem opcodes_nodup : (opcodeTable.map fun r => opField r.pattern).Nodup := by decide

/-- No row has the reserved opcode (30_encoding R69). -/
theorem pattern_ne_reserved : ∀ r ∈ opcodeTable, opField r.pattern ≠ 0xF := by decide

/-- Every opcode but the reserved one has a row (30_encoding R69). -/
theorem exists_row_of_opcode : ∀ op : BitVec 4, op ≠ 0xF → ∃ r ∈ opcodeTable, opField r.pattern = op := by decide

/-- The rows with a length field that can be too long are the two block writes'. -/
theorem isBlockWriteOp_iff_mnemonic : ∀ r ∈ opcodeTable,
    (isBlockWriteOp (opField r.pattern) = true ↔ r.mnemonic = "BLOCK_WRITE" ∨ r.mnemonic = "BLOCK_PROC_CALL") := by decide

/-- The row with a command's opcode bears the command's name (30_encoding R69). -/
theorem mnemonic_of_opcode (i : Instr) : ∀ r ∈ opcodeTable, opField r.pattern = i.opcode → r.mnemonic = i.mnemonic := by
  cases i <;> (rw [Instr.opcode, Instr.mnemonic]; decide)

/-! ### Decoding by the table -/

/-- A word that uses only its opcode's fields can be refused for its block length alone (30_encoding R75). -/
theorem wordRefusal_of_usesOnly {cw : CmdWord} (hop : opField cw ≠ 0xF) (hu : UsesOnly (fieldUse (opField cw)) cw) :
    wordRefusal cw = if isBlockWriteOp (opField cw) ∧ 32 < (lenField cw).toNat then some .blockLength else none := by
  obtain ⟨hlow, hhigh, hunused⟩ := (usesOnly_iff cw).mp hu
  rw [wordRefusal, if_neg hop, if_neg (by simp [hlow, hhigh]), if_neg (by simp [hunused])]

/-- A word that uses another field is refused for its form (30_encoding R75). -/
theorem wordRefusal_of_not_usesOnly {cw : CmdWord} (hop : opField cw ≠ 0xF) (hu : ¬UsesOnly (fieldUse (opField cw)) cw) :
    wordRefusal cw = some .reservedBits ∨ wordRefusal cw = some .unusedField := by
  rw [usesOnly_iff] at hu
  by_cases hres : reservedLow cw ≠ 0 ∨ reservedHigh cw ≠ 0
  · exact .inl (by rw [wordRefusal, if_neg hop, if_pos hres])
  · obtain ⟨hlow, hhigh⟩ := not_or.mp hres
    have hunused : unusedFieldSet cw = true :=
      by_contra fun hn => hu ⟨not_not.mp hlow, not_not.mp hhigh, by simpa using hn⟩
    exact .inr (by rw [wordRefusal, if_neg hop, if_neg hres, if_pos hunused])

/-- A word that belongs to no row is refused for its form (30_encoding R76). -/
theorem wordRefusal_of_no_row {cw : CmdWord} (h : ∀ r ∈ opcodeTable, r.matches cw = false) :
    wordRefusal cw = some .reservedOpcode ∨ wordRefusal cw = some .reservedBits ∨ wordRefusal cw = some .unusedField := by
  by_cases hop : opField cw = 0xF
  · exact .inl (if_pos hop)
  · obtain ⟨r, hr, hpattern⟩ := exists_row_of_opcode _ hop
    refine .inr (wordRefusal_of_not_usesOnly hop fun hu => ?_)
    have hmatch := ((rowFixes_of_mem r hr).matches_iff cw).mpr ⟨hpattern.symm, hpattern ▸ hu⟩
    simp [h r hr] at hmatch

/-- The decoder refuses what the word's own checks refuse. -/
theorem decode_of_wordRefusal {cw : CmdWord} {F : RefuseReason} (h : wordRefusal cw = some F) (wb : WriteBuf)
    (ptd : Option PTDesc) : decode ⟨cw, wb, ptd⟩ = .error F :=
  (decode_error_iff _ F).mpr (.inl h)

/-- Settles O4: a row matches the words that hold its opcode and use only the opcode's fields, as the decoder itself checks. -/
theorem opcodeTableDecodesEveryWord : Obligations.OpcodeTableDecodesEveryWord := by
  intro cw
  refine ⟨fun r hr r' hr' h h' => ?_, fun hnone wb ptd => ?_, fun r hr h wb ptd => ?_⟩
  · have hop := ((rowFixes_of_mem r hr).matches_iff cw).mp h
    have hop' := ((rowFixes_of_mem r' hr').matches_iff cw).mp h'
    exact List.inj_on_of_nodup_map opcodes_nodup hr hr' (hop.1.symm.trans hop'.1)
  · exact (wordRefusal_of_no_row hnone).imp (decode_of_wordRefusal · wb ptd)
      (.imp (decode_of_wordRefusal · wb ptd) (decode_of_wordRefusal · wb ptd))
  · obtain ⟨hop, hu⟩ := ((rowFixes_of_mem r hr).matches_iff cw).mp h
    rw [← hop] at hu
    have hword := wordRefusal_of_usesOnly (hop ▸ pattern_ne_reserved r hr) hu
    rw [← isBlockWriteOp_iff_mnemonic r hr, ← hop]
    by_cases hlong : isBlockWriteOp (opField cw) = true ∧ 32 < (lenField cw).toNat
    · exact .inl ⟨hlong.1, hlong.2, decode_of_wordRefusal (by rw [hword, if_pos hlong]) wb ptd⟩
    · rw [if_neg hlong] at hword
      cases hd : decode ⟨cw, wb, ptd⟩ with
      | error F =>
        rcases (decode_error_iff _ F).mp hd with hF | ⟨-, rfl, hpt, hshape⟩
        · rw [hword] at hF
          cases hF
        · exact .inr (.inl ⟨hshape, hpt, rfl⟩)
      | ok i =>
        have hopcode := hop.symm.trans ((decode_iff _ i).mp hd).1
        exact .inr (.inr ⟨hlong, i, rfl, (mnemonic_of_opcode i r hr hopcode).symm⟩)

/-! ### Ignored inputs (30_encoding R72) -/

/-- The operands are read from the word, the block data of a block write and the descriptor of a passthrough command. -/
theorem decodeOperands_congr {c c' : Cmd} (h : SameUsedInputs c c') : decodeOperands c = decodeOperands c' := by
  obtain ⟨hcw, hdata, hptd⟩ := h
  unfold decodeOperands
  rw [← hcw]
  split
  case h_10 ho | h_11 ho => rw [hdata (by rw [opField_eq_of_toNat ho]; rfl)]
  case h_12 ho | h_13 ho | h_14 ho | h_15 ho => rw [hptd (by rw [opField_eq_of_toNat ho]; rfl)]
  all_goals rfl

/-- The decoder reads only the inputs a command uses. -/
theorem decode_congr {c c' : Cmd} (h : SameUsedInputs c c') : decode c = decode c' := by
  rw [decode, decode, decodeOperands_congr h, h.1]

/-- Only the inputs a command uses are latched (10_state R27 to R29). -/
theorem latch_congr {c c' : Cmd} (h : SameUsedInputs c c') : latch c = latch c' := by
  obtain ⟨hcw, hdata, hptd⟩ := h
  unfold latch
  rw [← hcw, ite_congr rfl (fun hop => congrArg cellsOf (hdata hop)) fun _ => rfl, ite_congr rfl hptd fun _ => rfl]

/-- In IDLE a command is run alike whatever the port shows: its issue and its refusal both free the port (log 20). -/
theorem exec_setPort {s : State} (hf : s.fsm = .idle) (hm : s.Unmarked) (i : Instr) (port port' : Option Cmd) :
    exec i { s with cmdPort := port } = exec i { s with cmdPort := port' } := by
  cases hcheck : operandCheck s.params i with
  | none =>
    exact (exec_issue (s := { s with cmdPort := port }) hf hm hcheck).trans
      (exec_issue (s := { s with cmdPort := port' }) hf hm hcheck).symm
  | some F =>
    exact (exec_refuse (s := { s with cmdPort := port }) hf hm hcheck).trans
      (exec_refuse (s := { s with cmdPort := port' }) hf hm hcheck).symm

/-- Settles O30: the decoder and the latch read only what is used, and the step's outcome no longer holds the presented command. -/
theorem ignoredInputsHaveNoEffect : Obligations.IgnoredInputsHaveNoEffect := by
  intro c c' h
  refine ⟨decode_congr h, latch_congr h, fun s hf hm hr => ?_⟩
  rw [step_accept (s := { s with cmdPort := some c }) hf hm hr rfl,
    step_accept (s := { s with cmdPort := some c' }) hf hm hr rfl, decode_congr h]
  cases decode c' with
  | error F => rfl
  | ok i => exact exec_setPort hf hm i _ _

end Sys2Proof.Machine
end

section
/-! SUPPORT. The assembler accepts exactly the lines of the commands that can be encoded (30_encoding R78, R79, R81). -/

namespace Sys2Proof.Machine

/-! ### Operands that an assembler accepts (30_encoding R79) -/

/-- A number is accepted as a byte when it is the byte's value. -/
theorem asmByte_eq_some_iff (n : Nat) (b : Byte) : asmByte n = some b ↔ n = b.toNat := by
  have hlt := b.isLt
  simp only [asmByte, Option.ite_none_right_eq_some, Option.some.injEq, ← BitVec.toNat_inj, BitVec.toNat_ofNat]
  omega

/-- A number is accepted as a word when it is the word's value. -/
theorem asmWord_eq_some_iff (n : Nat) (w : Word) : asmWord n = some w ↔ n = w.toNat := by
  have hlt := w.isLt
  simp only [asmWord, Option.ite_none_right_eq_some, Option.some.injEq, ← BitVec.toNat_inj, BitVec.toNat_ofNat]
  omega

/-- A number is accepted as a flag when it is 0 or 1. -/
theorem asmFlag_eq_some_iff (n : Nat) (flag : Bool) : asmFlag n = some flag ↔ n = flag.toNat := by
  unfold asmFlag
  split_ifs <;> cases flag <;> simp_all

/-- Reading back what `written` writes, element by element, reads back a whole list. -/
theorem mapM_eq_some_iff {α β : Type} {read : α → Option β} {written : β → α}
    (h : ∀ x y, read x = some y ↔ x = written y) (l : List α) (l' : List β) : l.mapM read = some l' ↔ l = l'.map written := by
  induction l generalizing l' with
  | nil => cases l' <;> simp
  | cons x xs ih => cases l' <;> simp [Option.bind_eq_some_iff, h, ih]

/-- A list of numbers is accepted as bytes when it is the list of their values. -/
theorem asmBytes_eq_some_iff (ns : List Nat) (bs : List Byte) : asmBytes ns = some bs ↔ ns = bs.map BitVec.toNat :=
  mapM_eq_some_iff asmByte_eq_some_iff ns bs

/-- Block data are accepted as bytes are, up to 32 of them. -/
theorem asmBlock_eq_some_iff (ns : List Nat) (data : List Byte) :
    asmBlock ns = some data ↔ data.length ≤ 32 ∧ ns = data.map BitVec.toNat := by
  rw [asmBlock, Option.ite_none_right_eq_some, asmBytes_eq_some_iff]
  refine and_congr_left fun h => ?_
  rw [h, List.length_map]

/-- A segment as a line writes it (30_encoding R78). -/
def writtenSeg : Seg → AsmSeg
  | .write bs => .write (bs.map BitVec.toNat)
  | .read n => .read n

/-- A list of segments is accepted when it is written so. -/
theorem asmSegs_eq_some_iff (segs : List AsmSeg) (ss : List Seg) : asmSegs segs = some ss ↔ segs = ss.map writtenSeg := by
  refine mapM_eq_some_iff (fun seg s => ?_) segs ss
  cases seg <;> cases s <;> simp [writtenSeg, asmBytes_eq_some_iff]

@[simp] theorem asmByte_toNat (b : Byte) : asmByte b.toNat = some b := (asmByte_eq_some_iff _ b).mpr rfl
@[simp] theorem asmWord_toNat (w : Word) : asmWord w.toNat = some w := (asmWord_eq_some_iff _ w).mpr rfl
@[simp] theorem asmFlag_toNat (flag : Bool) : asmFlag flag.toNat = some flag := (asmFlag_eq_some_iff _ flag).mpr rfl
@[simp] theorem asmBytes_toNat (bs : List Byte) : asmBytes (bs.map BitVec.toNat) = some bs :=
  (asmBytes_eq_some_iff _ bs).mpr rfl
@[simp] theorem asmSegs_writtenSeg (ss : List Seg) : asmSegs (ss.map writtenSeg) = some ss := (asmSegs_eq_some_iff _ ss).mpr rfl

/-- At most 32 bytes are accepted as block data. -/
theorem asmBlock_toNat {data : List Byte} (h : data.length ≤ 32) : asmBlock (data.map BitVec.toNat) = some data :=
  (asmBlock_eq_some_iff _ data).mpr ⟨h, rfl⟩

/-! ### Operands that it does not -/

/-- A number above 0xFF is no byte. -/
theorem asmByte_eq_none {n : Nat} (h : 0xFF < n) : asmByte n = none := if_neg (by omega)

/-- A number above 0xFFFF is no word. -/
theorem asmWord_eq_none {n : Nat} (h : 0xFFFF < n) : asmWord n = none := if_neg (by omega)

/-- A number above 1 is no flag. -/
theorem asmFlag_eq_none {n : Nat} (h : 1 < n) : asmFlag n = none := by
  rw [asmFlag, if_neg (by omega), if_neg (by omega)]

/-- A list with an element above 0xFF is no list of bytes. -/
theorem asmBytes_eq_none {ns : List Nat} {n : Nat} (hn : n ∈ ns) (h : 0xFF < n) : asmBytes ns = none := by
  refine Option.eq_none_iff_forall_ne_some.mpr fun bs hbs => ?_
  rw [(asmBytes_eq_some_iff ns bs).mp hbs] at hn
  obtain ⟨b, -, rfl⟩ := List.mem_map.mp hn
  have := b.isLt
  omega

/-- Such a list is no block data. -/
theorem asmBlock_eq_none {ns : List Nat} {n : Nat} (hn : n ∈ ns) (h : 0xFF < n) : asmBlock ns = none := by
  rw [asmBlock, asmBytes_eq_none hn h, ite_self]

/-- More than 32 bytes are no block data. -/
theorem asmBlock_eq_none_of_length {ns : List Nat} (h : 32 < ns.length) : asmBlock ns = none := if_neg (by omega)

/-- A `W` segment with an element above 0xFF is no segment. -/
theorem asmSegs_eq_none {segs : List AsmSeg} {ns : List Nat} {n : Nat} (hseg : .write ns ∈ segs) (hn : n ∈ ns)
    (h : 0xFF < n) : asmSegs segs = none := by
  refine Option.eq_none_iff_forall_ne_some.mpr fun ss hss => ?_
  rw [(asmSegs_eq_some_iff segs ss).mp hss] at hseg
  obtain ⟨s, -, hs⟩ := List.mem_map.mp hseg
  cases s with
  | write bs =>
    have hns : asmBytes ns = some bs := (asmBytes_eq_some_iff ns bs).mpr (by injection hs with hs; exact hs.symm)
    rw [asmBytes_eq_none hn h] at hns
    cases hns
  | read => cases hs

/-! ### The fifteen lines (30_encoding R78) -/

section Lines
variable (a r b w q n : Nat) (bs : List Nat) (ss : List AsmSeg)

theorem asmInstr_quick : asmInstr ⟨"QUICK".toList, [.num a, .num q]⟩ = do return .quick (← asmByte a) (← asmFlag q) := rfl
theorem asmInstr_recvByte : asmInstr ⟨"RECV_BYTE".toList, [.num a]⟩ = do return .recvByte (← asmByte a) := rfl
theorem asmInstr_sendByte : asmInstr ⟨"SEND_BYTE".toList, [.num a, .num b]⟩ = do
    return .sendByte (← asmByte a) (← asmByte b) := rfl
theorem asmInstr_readByte : asmInstr ⟨"READ_BYTE".toList, [.num a, .num r]⟩ = do
    return .readByte (← asmByte a) (← asmByte r) := rfl
theorem asmInstr_readWord : asmInstr ⟨"READ_WORD".toList, [.num a, .num r]⟩ = do
    return .readWord (← asmByte a) (← asmByte r) := rfl
theorem asmInstr_writeByte : asmInstr ⟨"WRITE_BYTE".toList, [.num a, .num r, .num b]⟩ = do
    return .writeByte (← asmByte a) (← asmByte r) (← asmByte b) := rfl
theorem asmInstr_writeWord : asmInstr ⟨"WRITE_WORD".toList, [.num a, .num r, .num w]⟩ = do
    return .writeWord (← asmByte a) (← asmByte r) (← asmWord w) := rfl
theorem asmInstr_procCall : asmInstr ⟨"PROC_CALL".toList, [.num a, .num r, .num w]⟩ = do
    return .procCall (← asmByte a) (← asmByte r) (← asmWord w) := rfl
theorem asmInstr_blockRead : asmInstr ⟨"BLOCK_READ".toList, [.num a, .num r]⟩ = do
    return .blockRead (← asmByte a) (← asmByte r) := rfl
theorem asmInstr_blockWrite : asmInstr ⟨"BLOCK_WRITE".toList, [.num a, .num r, .bytes bs]⟩ = do
    return .blockWrite (← asmByte a) (← asmByte r) (← asmBlock bs) := rfl
theorem asmInstr_blockProcCall : asmInstr ⟨"BLOCK_PROC_CALL".toList, [.num a, .num r, .bytes bs]⟩ = do
    return .blockProcCall (← asmByte a) (← asmByte r) (← asmBlock bs) := rfl
theorem asmInstr_i2cRead : asmInstr ⟨"I2C_READ".toList, [.num a, .num n]⟩ = do return .i2cRead (← asmByte a) n := rfl
theorem asmInstr_i2cWrite : asmInstr ⟨"I2C_WRITE".toList, [.num a, .bytes bs]⟩ = do
    return .i2cWrite (← asmByte a) (← asmBytes bs) := rfl
theorem asmInstr_i2cWriteRead : asmInstr ⟨"I2C_WRITE_READ".toList, [.num a, .bytes bs, .num n]⟩ = do
    return .i2cWriteRead (← asmByte a) (← asmBytes bs) n := rfl
theorem asmInstr_i2cTxn : asmInstr ⟨"I2C_TXN".toList, [.num a, .segs ss]⟩ = do
    return .i2cTxn (← asmByte a) (← asmSegs ss) := rfl

end Lines

/-- The operands of a command as its line writes them (30_encoding R78). -/
def writtenOperands : Instr → List AsmOperand
  | .quick addr flag => [.num addr.toNat, .num flag.toNat]
  | .recvByte addr => [.num addr.toNat]
  | .sendByte addr byte => [.num addr.toNat, .num byte.toNat]
  | .readByte addr reg => [.num addr.toNat, .num reg.toNat]
  | .readWord addr reg => [.num addr.toNat, .num reg.toNat]
  | .writeByte addr reg byte => [.num addr.toNat, .num reg.toNat, .num byte.toNat]
  | .writeWord addr reg word => [.num addr.toNat, .num reg.toNat, .num word.toNat]
  | .procCall addr reg word => [.num addr.toNat, .num reg.toNat, .num word.toNat]
  | .blockRead addr reg => [.num addr.toNat, .num reg.toNat]
  | .blockWrite addr reg data => [.num addr.toNat, .num reg.toNat, .bytes (data.map BitVec.toNat)]
  | .blockProcCall addr reg data => [.num addr.toNat, .num reg.toNat, .bytes (data.map BitVec.toNat)]
  | .i2cRead addr n => [.num addr.toNat, .num n]
  | .i2cWrite addr bs => [.num addr.toNat, .bytes (bs.map BitVec.toNat)]
  | .i2cWriteRead addr bs n => [.num addr.toNat, .bytes (bs.map BitVec.toNat), .num n]
  | .i2cTxn addr segs => [.num addr.toNat, .segs (segs.map writtenSeg)]

/-- The line of a command (30_encoding R78). -/
def writtenLine (i : Instr) : AsmLine := ⟨i.mnemonic.toList, writtenOperands i⟩

/-- The line of a command that can be encoded denotes the command (30_encoding R78, R79). -/
theorem asmInstr_writtenLine {i : Instr} (h : i.encodable = true) : asmInstr (writtenLine i) = some i := by
  rw [encodable_iff] at h
  cases i with
  | quick => exact (asmInstr_quick ..).trans (by simp)
  | recvByte => exact (asmInstr_recvByte ..).trans (by simp)
  | sendByte => exact (asmInstr_sendByte ..).trans (by simp)
  | readByte => exact (asmInstr_readByte ..).trans (by simp)
  | readWord => exact (asmInstr_readWord ..).trans (by simp)
  | writeByte => exact (asmInstr_writeByte ..).trans (by simp)
  | writeWord => exact (asmInstr_writeWord ..).trans (by simp)
  | procCall => exact (asmInstr_procCall ..).trans (by simp)
  | blockRead => exact (asmInstr_blockRead ..).trans (by simp)
  | blockWrite addr reg data => exact (asmInstr_blockWrite ..).trans (by simp [asmBlock_toNat (data := data) h])
  | blockProcCall addr reg data => exact (asmInstr_blockProcCall ..).trans (by simp [asmBlock_toNat (data := data) h])
  | i2cRead => exact (asmInstr_i2cRead ..).trans (by simp)
  | i2cWrite => exact (asmInstr_i2cWrite ..).trans (by simp)
  | i2cWriteRead => exact (asmInstr_i2cWriteRead ..).trans (by simp)
  | i2cTxn => exact (asmInstr_i2cTxn ..).trans (by simp)

/-- A line with a command's mnemonic and operands is the command's line. -/
theorem eq_writtenLine {line : AsmLine} {i : Instr} (hm : String.ofList line.mnemonic = i.mnemonic)
    (ho : line.operands = writtenOperands i) : line = writtenLine i := by
  rw [writtenLine, ← hm, ← ho, String.toList_ofList]

/-- A line that an assembler accepts is the line of the command it denotes, and that command can be encoded. -/
theorem writtenLine_of_asmInstr {line : AsmLine} {i : Instr} (h : asmInstr line = some i) :
    i.encodable = true ∧ line = writtenLine i := by
  unfold asmInstr at h
  split at h
  case h_16 => cases h
  -- The lines fall into groups by how many of their operands have to be checked.
  all_goals simp only [Option.bind_eq_bind, Option.bind_eq_some_iff, Option.pure_def, Option.some.injEq, asmByte_eq_some_iff,
    asmWord_eq_some_iff, asmFlag_eq_some_iff, asmBytes_eq_some_iff, asmBlock_eq_some_iff, asmSegs_eq_some_iff] at h
  case h_2 hm ho | h_12 hm ho =>
    obtain ⟨addr, rfl, rfl⟩ := h
    exact ⟨rfl, eq_writtenLine hm ho⟩
  case h_1 hm ho | h_3 hm ho | h_4 hm ho | h_5 hm ho | h_9 hm ho | h_13 hm ho | h_14 hm ho | h_15 hm ho =>
    obtain ⟨addr, rfl, x, rfl, rfl⟩ := h
    exact ⟨rfl, eq_writtenLine hm ho⟩
  case h_6 hm ho | h_7 hm ho | h_8 hm ho =>
    obtain ⟨addr, rfl, reg, rfl, x, rfl, rfl⟩ := h
    exact ⟨rfl, eq_writtenLine hm ho⟩
  case h_10 hm ho | h_11 hm ho =>
    obtain ⟨addr, rfl, reg, rfl, data, ⟨hlen, rfl⟩, rfl⟩ := h
    exact ⟨decide_eq_true hlen, eq_writtenLine hm ho⟩

/-- A line that no command is written as denotes none. -/
theorem asmInstr_eq_none {line : AsmLine} (h : ∀ i, line ≠ writtenLine i) : asmInstr line = none :=
  Option.eq_none_iff_forall_ne_some.mpr fun i hi => h i (writtenLine_of_asmInstr hi).2

/-- Every line begins with an address. -/
theorem writtenOperands_address (i : Instr) : ∃ (addr : Byte) (rest : List AsmOperand),
    writtenOperands i = .num addr.toNat :: rest := by
  cases i <;> exact ⟨_, _, rfl⟩

/-- The lines that go on with a register code or a data byte. -/
theorem writtenOperands_second {i : Instr} (h : i.mnemonic ∈ ["SEND_BYTE", "READ_BYTE", "READ_WORD", "WRITE_BYTE", "WRITE_WORD",
      "PROC_CALL", "BLOCK_READ", "BLOCK_WRITE", "BLOCK_PROC_CALL"]) : ∃ (addr x : Byte) (rest : List AsmOperand),
    writtenOperands i = .num addr.toNat :: .num x.toNat :: rest := by
  cases i
  case quick | recvByte | i2cRead | i2cWrite | i2cWriteRead | i2cTxn =>
    rw [Instr.mnemonic] at h
    exact absurd h (by decide)
  all_goals exact ⟨_, _, _, rfl⟩

/-- An address above 0xFF produces no command, in whichever line (30_encoding R79). -/
theorem asmInstr_eq_none_of_address {m : List Char} {a : Nat} {rest : List AsmOperand} (ha : 0xFF < a) :
    asmInstr ⟨m, .num a :: rest⟩ = none := by
  refine asmInstr_eq_none fun i hi => ?_
  obtain ⟨addr, rest', hrest⟩ := writtenOperands_address i
  simp only [writtenLine, hrest, AsmLine.mk.injEq, List.cons.injEq, AsmOperand.num.injEq] at hi
  have := addr.isLt
  omega

/-- A register code or a data byte above 0xFF in the second place produces no command (30_encoding R79). -/
theorem asmInstr_eq_none_of_second {m : String} {a b : Nat} {rest : List AsmOperand}
    (hm : m ∈ ["SEND_BYTE", "READ_BYTE", "READ_WORD", "WRITE_BYTE", "WRITE_WORD", "PROC_CALL", "BLOCK_READ", "BLOCK_WRITE",
      "BLOCK_PROC_CALL"]) (hb : 0xFF < b) : asmInstr ⟨m.toList, .num a :: .num b :: rest⟩ = none := by
  refine asmInstr_eq_none fun i hi => ?_
  have hmnemonic : m = i.mnemonic := String.toList_inj.mp (congrArg AsmLine.mnemonic hi)
  obtain ⟨addr, x, rest', hrest⟩ := writtenOperands_second (hmnemonic ▸ hm)
  simp only [writtenLine, hrest, AsmLine.mk.injEq, List.cons.injEq, AsmOperand.num.injEq] at hi
  have := x.isLt
  omega

/-- Settles O5: an assembler accepts exactly the lines of commands that can be encoded, and an operand out of range is refused where
it is read. -/
theorem assembledLineDecodesToItsCommand : Obligations.AssembledLineDecodesToItsCommand := by
  refine ⟨fun line i h => ?_,
    fun addr flag => asmInstr_writtenLine (i := .quick addr flag) rfl,
    fun addr => asmInstr_writtenLine (i := .recvByte addr) rfl,
    fun addr byte => asmInstr_writtenLine (i := .sendByte addr byte) rfl,
    fun addr reg => ⟨asmInstr_writtenLine (i := .readByte addr reg) rfl, asmInstr_writtenLine (i := .readWord addr reg) rfl,
      asmInstr_writtenLine (i := .blockRead addr reg) rfl⟩,
    fun addr reg byte => asmInstr_writtenLine (i := .writeByte addr reg byte) rfl,
    fun addr reg word => ⟨asmInstr_writtenLine (i := .writeWord addr reg word) rfl,
      asmInstr_writtenLine (i := .procCall addr reg word) rfl⟩,
    fun addr reg data hdata => ⟨asmInstr_writtenLine (i := .blockWrite addr reg data) (decide_eq_true hdata),
      asmInstr_writtenLine (i := .blockProcCall addr reg data) (decide_eq_true hdata)⟩,
    fun addr n => asmInstr_writtenLine (i := .i2cRead addr n) rfl,
    fun addr bs => asmInstr_writtenLine (i := .i2cWrite addr bs) rfl,
    fun addr bs n => asmInstr_writtenLine (i := .i2cWriteRead addr bs n) rfl,
    fun addr segs => asmInstr_writtenLine (i := .i2cTxn addr segs) rfl,
    fun m a rest => asmInstr_eq_none_of_address, fun m hm a b rest => asmInstr_eq_none_of_second hm,
    fun a r b hb => ?_, fun a r n b bs hmem hb => ?_, fun a b bs segs hseg hmem hb => ?_, fun a r w hw => ?_, fun a q hq => ?_,
    fun a r bs hbs => ?_⟩
  · obtain ⟨henc, -⟩ := writtenLine_of_asmInstr h
    exact ⟨henc, decode_encode henc⟩
  · rw [asmInstr_writeByte, asmByte_eq_none hb]
    simp
  · rw [asmInstr_blockWrite, asmInstr_blockProcCall, asmInstr_i2cWrite, asmInstr_i2cWriteRead, asmBytes_eq_none hmem hb,
      asmBlock_eq_none hmem hb]
    simp
  · rw [asmInstr_i2cTxn, asmSegs_eq_none hseg hmem hb]
    simp
  · rw [asmInstr_writeWord, asmInstr_procCall, asmWord_eq_none hw]
    simp
  · rw [asmInstr_quick, asmFlag_eq_none hq]
    simp
  · rw [asmInstr_blockWrite, asmInstr_blockProcCall, asmBlock_eq_none_of_length hbs]
    simp

/-! ### Lines of text -/

/-- Settles O6, by assembling the four lines of 30_encoding R81. -/
theorem workedLinesAssemble : Obligations.WorkedLinesAssemble := by
  unfold Obligations.WorkedLinesAssemble
  decide

end Sys2Proof.Machine
end

section
/-! SUPPORT. The quick, byte, word and process-call commands (40_smbus_byte_word R89 to R97), each from what it takes to decode it,
the shape of its answer, its frame and its deframe. -/

namespace Sys2Proof.Machine

/-! ### The word of a command without block data (30_encoding R70, R71) -/

/-- A command without block data is decoded from its opcode, the fields it uses and the operands read from them. -/
theorem decode_iff_of_operands {c : Cmd} {i : Instr} {operands : Prop} (hb : isBlockWriteOp i.opcode = false)
    (ho : opField c.cw = i.opcode → (decodeOperands c = .ok i ↔ operands)) :
    decode c = .ok i ↔ opField c.cw = i.opcode ∧ UsesOnly (fieldUse i.opcode) c.cw ∧ operands := by
  rw [decode_iff, hb]
  simp only [Bool.false_eq_true, false_implies, true_and]
  exact and_congr_right fun hop => and_congr_right fun _ => ho hop

/-! ### The one request (40 R82) -/

/-- A command whose operands have no limit is issued with the request of its frame. -/
theorem issues_frame {i : Instr} (hc : ∀ p, operandCheck p i = none) : Issues i (frame i) :=
  issuesWithin_of (fun _ _ => rfl) fun p _ => hc p

/-! ### Shapes of answers (20_memory R57) -/

/-- A request that reads nothing is answered without parts. -/
theorem shapeOK_nothing_iff {q : TReq} (hq : readShape q = []) (d : ReadData) : shapeOK q d = true ↔ d = [] := by
  rw [shapeOK_iff, hq, List.map_eq_nil_iff]

/-- A request with one read part is answered with one part of the length asked for. -/
theorem shapeOK_single_iff {q : TReq} {n : Nat} (hq : readShape q = [n]) (d : ReadData) :
    shapeOK q d = true ↔ ∃ part : List Byte, part.length = n ∧ d = [part] := by
  rw [shapeOK_iff, hq, shape_single_iff]

/-- A read of zero bytes is answered with one empty part. -/
theorem shapeOK_empty_iff {q : TReq} (hq : readShape q = [0]) (d : ReadData) : shapeOK q d = true ↔ d = [[]] := by
  simp [shapeOK_single_iff hq]

/-- A read of one byte is answered with one byte. -/
theorem shapeOK_byte_iff {q : TReq} (hq : readShape q = [1]) (d : ReadData) : shapeOK q d = true ↔ ∃ b, d = [[b]] := by
  rw [shapeOK_single_iff hq]
  constructor
  · rintro ⟨part, hlen, rfl⟩
    obtain ⟨b, rfl⟩ := List.length_eq_one_iff.mp hlen
    exact ⟨b, rfl⟩
  · rintro ⟨b, rfl⟩
    exact ⟨[b], rfl, rfl⟩

/-- A read of two bytes is answered with two bytes. -/
theorem shapeOK_word_iff {q : TReq} (hq : readShape q = [2]) (d : ReadData) :
    shapeOK q d = true ↔ ∃ b0 b1, d = [[b0, b1]] := by
  rw [shapeOK_single_iff hq]
  constructor
  · rintro ⟨part, hlen, rfl⟩
    obtain ⟨b0, b1, rfl⟩ := List.length_eq_two.mp hlen
    exact ⟨b0, b1, rfl⟩
  · rintro ⟨b0, b1, rfl⟩
    exact ⟨[b0, b1], rfl, rfl⟩

/-! ### Words (00_scope R19) -/

/-- Two bytes received are a word by its value, the first byte the low one (40 R88). -/
theorem deframeWord_bytes (b0 b1 : Byte) :
    deframeWord [[b0, b1]] = some (Result.plain (rspWord (BitVec.ofNat 16 (256 * b1.toNat + b0.toNat)))) := by
  rw [deframeWord_single, le16_eq_ofNat]
  rfl

/-- The bytes of a word, low one first, make the word (40 R97). -/
theorem le16_loByte_hiByte (w : Word) : le16 (loByte w) (hiByte w) = w := by
  apply BitVec.eq_of_toNat_eq
  rw [le16_toNat, loByte_toNat, hiByte_toNat]
  omega

/-- The bytes of a word received, low one first, are decoded to the word (40 R88, R97). -/
theorem deframeWord_wordBytes {E : Type} (w : Word) :
    (deframeWord [[loByte w, hiByte w]] : Option (Result E)) = some (Result.plain (Rsp.okWord w)) := by
  rw [deframeWord_single, le16_loByte_hiByte]

/-! ### The commands -/

/-- Settles O7: the read of zero bytes and the empty write are QUICK's two frames. -/
theorem quickCommand : Obligations.QuickCommand := by
  intro addr flag
  refine ⟨fun c => decode_iff_of_operands rfl fun hop => ?_, issues_frame fun _ => rfl,
    issues_frame fun _ => rfl, shapeOK_empty_iff rfl, shapeOK_nothing_iff rfl,
    answersWith_of rfl rfl, answersWith_of rfl rfl, takesExceptions _ _, takesExceptions _ _⟩
  rw [← beq_iff_eq (a := qField c.cw), ← Bool.eq_iff_iff]
  simp [decodeOperands, hop, Instr.opcode]

/-- Settles O8: the one part of one byte that the read asks for is the byte returned. -/
theorem receiveByteCommand : Obligations.ReceiveByteCommand := by
  intro addr
  refine ⟨fun c => decode_iff_of_operands rfl fun hop => ?_, issues_frame fun _ => rfl,
    shapeOK_byte_iff rfl, fun b => answersWith_of rfl (deframeByte_single b), takesExceptions _ _⟩
  simp [decodeOperands, hop, Instr.opcode]

/-- Settles O9: the empty answer of a write carries no result. -/
theorem sendByteCommand : Obligations.SendByteCommand := by
  intro addr byte
  refine ⟨fun c => decode_iff_of_operands rfl fun hop => ?_, issues_frame fun _ => rfl,
    shapeOK_nothing_iff rfl, answersWith_of rfl rfl, takesExceptions _ _⟩
  simp [decodeOperands, hop, Instr.opcode]

/-- Settles O10, as Receive Byte, with the register byte written first in the same request. -/
theorem readByteCommand : Obligations.ReadByteCommand := by
  intro addr reg
  refine ⟨fun c => decode_iff_of_operands rfl fun hop => ?_, issues_frame fun _ => rfl,
    shapeOK_byte_iff rfl, fun b => answersWith_of rfl (deframeByte_single b), takesExceptions _ _⟩
  simp [decodeOperands, hop, Instr.opcode]

/-- Settles O11: the two bytes read are a word by `deframeWord_bytes`. -/
theorem readWordCommand : Obligations.ReadWordCommand := by
  intro addr reg
  refine ⟨fun c => decode_iff_of_operands rfl fun hop => ?_, issues_frame fun _ => rfl,
    shapeOK_word_iff rfl, fun b0 b1 => answersWith_of rfl (deframeWord_bytes b0 b1), takesExceptions _ _⟩
  simp [decodeOperands, hop, Instr.opcode]

/-- Settles O12: the register byte and the data byte go out in one write. -/
theorem writeByteCommand : Obligations.WriteByteCommand := by
  intro addr reg byte
  refine ⟨fun c => decode_iff_of_operands rfl fun hop => ?_, issues_frame fun _ => rfl,
    shapeOK_nothing_iff rfl, answersWith_of rfl rfl, takesExceptions _ _⟩
  simp [decodeOperands, hop, Instr.opcode]

/-- Settles O13: the two bytes given by value are the word's own bytes, which the data fields hold by `wordField_eq_iff`. -/
theorem writeWordCommand : Obligations.WriteWordCommand := by
  intro addr reg lo hi word hword
  obtain ⟨rfl, rfl⟩ := bytes_of_word hword
  refine ⟨fun c => decode_iff_of_operands rfl fun hop => ?_, issues_frame fun _ => rfl,
    shapeOK_nothing_iff rfl, answersWith_of rfl rfl, takesExceptions _ _⟩
  simp [decodeOperands, hop, Instr.opcode, wordField_eq_iff]

/-- Settles O14: the word goes out as Write Word's does and the answer comes back as Read Word's does. -/
theorem processCallCommand : Obligations.ProcessCallCommand := by
  intro addr reg lo hi word hword
  obtain ⟨rfl, rfl⟩ := bytes_of_word hword
  refine ⟨fun c => decode_iff_of_operands rfl fun hop => ?_, issues_frame fun _ => rfl,
    shapeOK_word_iff rfl, fun b0 b1 => answersWith_of rfl (deframeWord_bytes b0 b1), takesExceptions _ _⟩
  simp [decodeOperands, hop, Instr.opcode, wordField_eq_iff]

/-- Settles O36: the bytes after the register byte in Write Word's request are the word's own, and `deframeWord_wordBytes` puts them
together again. -/
theorem wordRoundTripThroughADevice : Obligations.WordRoundTripThroughADevice := by
  intro addr reg word s t u q rest hidle hunmarked hwrite hanswer hq
  rw [exec_issue hidle hunmarked rfl] at hwrite
  cases hwrite
  subst hq
  have hread : AnswersWith (.readWord addr reg) (.writeRead addr [reg] 2) [[loByte word, hiByte word]] (Rsp.okWord word) :=
    answersWith_of rfl (deframeWord_wordBytes word)
  exact ⟨_, hread u rest hanswer, rfl, rfl⟩

end Sys2Proof.Machine
end

section
/-! SUPPORT. The block commands (41_smbus_block R98 to R106): the word of a block write, its length limit, its first segment, and the
one decoding that both block reads make of 32 bytes. -/

namespace Sys2Proof.Machine

/-! ### The word of a block write (30_encoding R70, R71, R75) -/

/-- A block write is decoded from its opcode, the fields it uses and the operands read from them, for lengths up to 32. -/
theorem decode_iff_of_blockOperands {c : Cmd} {i : Instr} {addr reg : Byte} {data : List Byte}
    (hb : isBlockWriteOp i.opcode = true)
    (ho : opField c.cw = i.opcode →
      (decodeOperands c = .ok i ↔ addrField c.cw = addr ∧ regField c.cw = reg ∧ blockData c = data)) :
    decode c = .ok i ↔ opField c.cw = i.opcode ∧ UsesOnly (fieldUse i.opcode) c.cw ∧ addrField c.cw = addr ∧
      regField c.cw = reg ∧ (lenField c.cw).toNat ≤ 32 ∧ c.wb.toList.take (lenField c.cw).toNat = data := by
  rw [decode_iff, hb]
  refine and_congr_right fun hop => and_congr_right fun _ => ?_
  rw [ho hop, blockData, eq_self, true_imp_iff]
  tauto

/-- A block write's word with a length over 32 is refused, whatever is in `WB` (30_encoding R75). -/
theorem decode_blockLength {c : Cmd} (hb : isBlockWriteOp (opField c.cw) = true) (hop : opField c.cw ≠ 0xF)
    (hu : UsesOnly (fieldUse (opField c.cw)) c.cw) (hlen : 32 < (lenField c.cw).toNat) : decode c = .error .blockLength :=
  decode_of_wordRefusal ((wordRefusal_of_usesOnly hop hu).trans (if_pos ⟨hb, hlen⟩)) c.wb c.ptd

/-! ### The length limit and the first segment (41 R98) -/

/-- Data of at most 32 bytes pass the check at Issue. -/
theorem blockCheck_of_fits {data : List Byte} (h : data.length ≤ 32) : blockCheck data = none := by
  simp [blockCheck, blockDataFits, h]

/-- Longer data are refused at Issue with `BLOCK_LENGTH`. -/
theorem blockCheck_of_exceeds {data : List Byte} (h : ¬data.length ≤ 32) : blockCheck data = some .blockLength := by
  simp [blockCheck, blockDataFits, h]

/-- The first segment of a block write is the register byte and the number of data bytes. -/
theorem regLength_of_fits {reg : Byte} {data : List Byte} (h : data.length ≤ 32) :
    regLength reg data = [reg, BitVec.ofNat 8 data.length] := by
  rw [regLength, lengthByte_eq_ofNat data h]

/-- The request of a block write whose data fit. -/
theorem frameBlockWrite_of_fits {addr reg : Byte} {data : List Byte} (h : data.length ≤ 32) :
    frameBlockWrite addr reg data = .txn addr [.write [reg, BitVec.ofNat 8 data.length], .write data] := by
  rw [frameBlockWrite, regLength_of_fits h]

/-- The request of a block process call whose data fit. -/
theorem frameBlockProcCall_of_fits {addr reg : Byte} {data : List Byte} (h : data.length ≤ 32) :
    frameBlockProcCall addr reg data =
      .txn addr [.write [reg, BitVec.ofNat 8 data.length], .write data, .read 32] := by
  rw [frameBlockProcCall, regLength_of_fits h]

/-! ### The answer to a block read (41 R99, R100) -/

/-- A read of 32 bytes is answered with a length prefix and 31 bytes after it. -/
theorem shapeOK_block_iff {q : TReq} (hq : readShape q = [32]) (d : ReadData) :
    shapeOK q d = true ↔ ∃ n rest, rest.length = 31 ∧ d = [n :: rest] := by
  rw [shapeOK_single_iff hq]
  constructor
  · rintro ⟨part, hlen, rfl⟩
    obtain ⟨n, rest, rfl⟩ := List.exists_cons_of_length_eq_add_one hlen
    exact ⟨n, rest, by simpa using hlen, rfl⟩
  · rintro ⟨n, rest, hlen, rfl⟩
    exact ⟨n :: rest, by simp [hlen], rfl⟩

/-- `STAGE` is filled with the bytes of the one part received, in order. -/
theorem stageFill_single (part : List Byte) : stageFill [part] = cellsOf part := rfl

/-- The first `n` cells of a list of bytes are those of its first `n` bytes. -/
theorem cellsTake_cellsOf (n : Nat) (bytes : List Byte) : cellsTake n (cellsOf bytes) = cellsOf (bytes.take n) := by
  apply Vector.ext
  intro i hi
  rw [cellsTake_cell, cellsOf_cell, cellsOf_cell, List.getElem?_take]

/-- 32 bytes received are staged, and decoded by their length prefix. -/
theorem deframeBlock_bytes (n : Byte) (rest : List Byte) :
    deframeBlock [n :: rest] = some ⟨rspBlock n (n :: rest), some (cellsOf (n :: rest))⟩ := by
  rw [deframeBlock_single, stageFill_single, cellsTake_cellsOf]
  rfl

/-- Every command that decodes its answer as a block stages and returns it so, whichever its request for 32 bytes. -/
theorem answersStaged_block {i : Instr} {q : TReq} {n : Byte} {rest : List Byte}
    (hdeframe : deframe (E := TransportError) i = deframeBlock) (hq : readShape q = [32]) (hlen : rest.length = 31) :
    AnswersStaged i q [n :: rest] (rspBlock n (n :: rest)) (cellsOf (n :: rest)) :=
  answersStaged_of ((shapeOK_block_iff hq _).mpr ⟨n, rest, hlen, rfl⟩) (by rw [hdeframe, deframeBlock_bytes])

/-- Both block reads decode their answer as a block. -/
theorem deframe_eq_deframeBlock {E : Type} {i : Instr}
    (hi : (∃ addr reg, i = .blockRead addr reg) ∨ ∃ addr reg data, i = .blockProcCall addr reg data) :
    deframe (E := E) i = deframeBlock := by
  obtain ⟨addr, reg, rfl⟩ | ⟨addr, reg, data, rfl⟩ := hi
  · rfl
  · rfl

/-! ### The cells of a block response (41 R100, R105) -/

/-- A cell of a block response holds the byte received, up to the clamped length. -/
theorem rspBlock_cell (n : Byte) (bytes : List Byte) (k : Nat) (hk : k < 32) :
    (rspBlock n bytes).rbuf[k] = if k < min (n.toNat + 1) 32 then bytes[k]? else none := by
  rw [rspBlock, Vector.getElem_ofFn, List.getElem?_take]

/-- The length prefix is element 0 of the response, for every prefix: the clamped length is at least 1. -/
theorem rspBlock_prefix (n : Byte) (rest : List Byte) : (rspBlock n (n :: rest)).rbuf[0] = some n := by
  rw [rspBlock_cell, if_pos (by omega), List.getElem?_cons_zero]

/-! ### The commands -/

/-- Settles O15: the request always reads 32 bytes, and `answersStaged_block` is their decoding. -/
theorem blockReadCommand : Obligations.BlockReadCommand := by
  intro addr reg
  refine ⟨fun c => decode_iff_of_operands rfl fun hop => ?_, issues_frame fun _ => rfl, shapeOK_block_iff rfl,
    fun n rest hlen => answersStaged_block rfl rfl hlen, takesExceptions _ _⟩
  simp [decodeOperands, hop, Instr.opcode]

/-- Settles O16: the decoder's length check and the check at Issue draw the same limit, of 32 bytes. -/
theorem blockWriteCommand : Obligations.BlockWriteCommand := by
  intro addr reg data
  refine ⟨fun c => decode_iff_of_blockOperands rfl fun hop => ?_, fun c hop hu => ?_,
    issuesWithin_of (fun _ => frameBlockWrite_of_fits) fun _ => blockCheck_of_fits,
    refusesBeyond_of fun _ => blockCheck_of_exceeds, shapeOK_nothing_iff rfl, answersWith_of rfl rfl, takesExceptions _ _⟩
  · simp [decodeOperands, hop, Instr.opcode]
  · exact decode_blockLength (by rw [hop]; rfl) (by rw [hop]; decide) (hop ▸ hu)

/-- Settles O17: the word and the first two segments are a block write's, the answer is decoded as a block read's. -/
theorem blockProcessCallCommand : Obligations.BlockProcessCallCommand := by
  rintro addr reg data q rfl
  refine ⟨fun c => decode_iff_of_blockOperands rfl fun hop => ?_, fun c hop hu => ?_,
    issuesWithin_of (fun _ => frameBlockProcCall_of_fits) fun _ => blockCheck_of_fits,
    refusesBeyond_of fun _ => blockCheck_of_exceeds, shapeOK_block_iff rfl,
    fun n rest hlen => answersStaged_block rfl rfl hlen, takesExceptions _ _⟩
  · simp [decodeOperands, hop, Instr.opcode]
  · exact decode_blockLength (by rw [hop]; rfl) (by rw [hop]; decide) (hop ▸ hu)

/-- Settles O35: both block reads end with `rspBlock`, whose length is between 1 and 32 and so neither wraps nor loses the prefix. -/
theorem blockResultIsTruncatedAndClamped : Obligations.BlockResultIsTruncatedAndClamped := by
  intro i s q n bs rest hi hlen hq hanswer
  have hend := answersStaged_block (n := n) (deframe_eq_deframeBlock hi) hq hlen s rest hanswer
  obtain ⟨-, ⟨hfault, -⟩, -, -⟩ := hanswer
  exact ⟨_, hend, rfl, hfault, rfl, rfl, ⟨_, rfl, effectiveLength_toNat n⟩, rspBlock_prefix n bs,
    fun k => rspBlock_cell n _ k k.isLt, fun k => cellsOf_cell _ k k.isLt⟩

end Sys2Proof.Machine
end

section
/-! SUPPORT. The passthrough commands (42_passthrough R107 to R113): what they decode from, when they are issued or refused, and that
their answer comes back as it is. Each fact is stated once, for every command that carries a descriptor. -/

namespace Sys2Proof.Machine

/-! ### The size limits (30_encoding R73) -/

/-- A read is within the limits when the bytes asked for are. -/
theorem PTDesc.fits_readPT_iff {n : Nat} (p : Params) : (PTDesc.readPT n).fits p = true ↔ n ≤ p.maxPtBytes :=
  decide_eq_true_iff

/-- A write is within the limits when its bytes are, with no ceiling of 32 (00_scope R9). -/
theorem PTDesc.fits_writePT_iff {bs : List Byte} (p : Params) :
    (PTDesc.writePT bs).fits p = true ↔ bs.length ≤ p.maxPtBytes :=
  decide_eq_true_iff

/-- A write-then-read is within the limits when both its lengths are. -/
theorem PTDesc.fits_writeReadPT_iff {bs : List Byte} {n : Nat} (p : Params) :
    (PTDesc.writeReadPT bs n).fits p = true ↔ bs.length ≤ p.maxPtBytes ∧ n ≤ p.maxPtBytes := by
  simp [PTDesc.fits]

/-- Every write segment and every read segment is within `MAX_PT_BYTES`. -/
theorem all_segFits_iff (p : Params) (segs : List Seg) : segs.all (Seg.fits p) = true ↔
    (∀ bs, Seg.write bs ∈ segs → bs.length ≤ p.maxPtBytes) ∧ ∀ n, Seg.read n ∈ segs → n ≤ p.maxPtBytes := by
  rw [List.all_eq_true]
  constructor
  · exact fun h => ⟨fun bs hbs => decide_eq_true_iff.mp (h _ hbs), fun n hn => decide_eq_true_iff.mp (h _ hn)⟩
  · rintro ⟨hwrites, hreads⟩ (bs | n) hseg
    · exact decide_eq_true (hwrites bs hseg)
    · exact decide_eq_true (hreads n hseg)

/-- A transaction is within the limits when its number of segments and each segment are. -/
theorem PTDesc.fits_txnPT_iff {segs : List Seg} (p : Params) : (PTDesc.txnPT segs).fits p = true ↔
    segs.length ≤ p.maxPtSegs ∧ (∀ bs, Seg.write bs ∈ segs → bs.length ≤ p.maxPtBytes) ∧
      ∀ n, Seg.read n ∈ segs → n ≤ p.maxPtBytes := by
  rw [PTDesc.fits, Bool.and_eq_true, decide_eq_true_iff, all_segFits_iff]

/-! ### The shape of the descriptor (30_encoding R70, R75) -/

/-- Each passthrough opcode has the one shape of descriptor that 30_encoding R70 names for it. -/
theorem shapeFitsOp_iff (op : BitVec 4) (ptd : Option PTDesc) : shapeFitsOp op ptd = true ↔
    (op = 0xB ∧ ∃ n, ptd = some (.readPT n)) ∨ (op = 0xC ∧ ∃ bs, ptd = some (.writePT bs)) ∨
      (op = 0xD ∧ ∃ bs n, ptd = some (.writeReadPT bs n)) ∨ (op = 0xE ∧ ∃ segs, ptd = some (.txnPT segs)) := by
  rcases ptd with _ | (_ | _ | _ | _) <;> simp [shapeFitsOp]

/-- A passthrough opcode is neither the reserved one nor a block write's (30_encoding R69). -/
theorem not_reserved_not_block_of_passthrough :
    ∀ op : BitVec 4, isPassthroughOp op = true → op ≠ 0xF ∧ isBlockWriteOp op = false := by
  decide

/-- A passthrough word in its form whose descriptor is missing or has another shape is refused (30_encoding R75). -/
theorem decode_ptShape {c : Cmd} (hpt : isPassthroughOp (opField c.cw) = true)
    (hu : UsesOnly (fieldUse (opField c.cw)) c.cw) (hshape : ¬shapeFitsOp (opField c.cw) c.ptd = true) :
    decode c = .error .ptShape := by
  obtain ⟨hop, hblock⟩ := not_reserved_not_block_of_passthrough _ hpt
  refine (decode_error_iff c _).mpr (.inr ⟨?_, rfl, hpt, by simpa using hshape⟩)
  rw [wordRefusal_of_usesOnly hop hu, hblock]
  simp

/-! ### A command that carries a descriptor (42 R107) -/

section Passthrough
variable {i : Instr} {desc : PTDesc} (hdesc : i.desc = some desc)
include hdesc

/-- Its opcode is a passthrough opcode. -/
theorem isPassthroughOp_of_desc : isPassthroughOp i.opcode = true :=
  by_contra fun h => by simp [desc_of_not_passthrough (by simpa using h)] at hdesc

/-- It is read back from its opcode, its address and its descriptor. -/
theorem decodeOperands_of_desc {c : Cmd} (hop : opField c.cw = i.opcode) (haddr : addrField c.cw = TReq.addr (frame i))
    (hptd : c.ptd = some desc) : decodeOperands c = .ok i := by
  cases i <;> cases hdesc <;>
    simpa [decodeOperands, hop, Instr.opcode, hptd, addr_frame, encodeWord] using haddr

/-- It is decoded from its opcode, the address and the descriptor, every other field zero. -/
theorem decode_iff_of_desc {c : Cmd} : decode c = .ok i ↔ opField c.cw = i.opcode ∧ UsesOnly (fieldUse i.opcode) c.cw ∧
    addrField c.cw = TReq.addr (frame i) ∧ c.ptd = some desc := by
  have hpt := isPassthroughOp_of_desc hdesc
  constructor
  · intro h
    obtain ⟨hop, hu, -⟩ := (decode_iff c i).mp h
    obtain ⟨hcw, -, hptd⟩ := operands_of_decode h
    exact ⟨hop, hu, by rw [addr_frame, hcw], (hptd hpt).trans hdesc⟩
  · rintro ⟨hop, hu, haddr, hptd⟩
    have hblock := (not_reserved_not_block_of_passthrough _ hpt).2
    exact (decode_iff c i).mpr ⟨hop, hu, by simp [hblock], decodeOperands_of_desc hdesc hop haddr hptd⟩

/-- Its one check at Issue is the size check of the descriptor. -/
theorem operandCheck_of_desc (p : Params) : operandCheck p i = sizeCheck p desc := by
  cases i <;> cases hdesc <;> rfl

/-- Its answer is not decoded. -/
theorem deframe_of_desc {E : Type} : deframe (E := E) i = deframePT := by
  cases i <;> cases hdesc <;> rfl

/-- Within the limits of its descriptor it is issued. -/
theorem issuesWithin_of_desc {within : Params → Prop} (hfits : ∀ p, desc.fits p = true ↔ within p) :
    IssuesWithin within i (frame i) :=
  issuesWithin_of (fun _ _ => rfl) fun p hp => (operandCheck_of_desc hdesc p).trans (if_pos ((hfits p).mpr hp))

/-- Beyond the limits of its descriptor it is refused. -/
theorem refusesBeyond_of_desc {within : Params → Prop} (hfits : ∀ p, desc.fits p = true ↔ within p) :
    RefusesBeyond within .ptSize i :=
  refusesBeyond_of fun p hp => (operandCheck_of_desc hdesc p).trans (if_neg (mt (hfits p).mp hp))

/-- An answer of the right shape is returned as it is (42 R112). -/
theorem answersWith_of_desc {q : TReq} {d : ReadData} (hs : shapeOK q d = true) : AnswersWith i q d (rspPT d) :=
  answersWith_of hs (by rw [deframe_of_desc hdesc]; rfl)

/-- Its descriptor's limits are all that makes it well-formed. -/
theorem fits_iff_wf_of_desc (p : Params) : desc.fits p = true ↔ i.wf p = true := by
  rw [← operandCheck_none_iff, operandCheck_of_desc hdesc, sizeCheck]
  simp

end Passthrough

/-! ### The commands -/

/-- Settles O18: one read part of the length asked for, returned as it is. -/
theorem passthroughRead : Obligations.PassthroughRead := by
  intro addr n
  refine ⟨fun c => decode_iff_of_desc rfl, fun c hop hu hnone => ?_,
    issuesWithin_of_desc rfl PTDesc.fits_readPT_iff, refusesBeyond_of_desc rfl PTDesc.fits_readPT_iff, shapeOK_single_iff rfl,
    fun bs hlen => answersWith_of_desc rfl ((shapeOK_single_iff rfl _).mpr ⟨bs, hlen, rfl⟩), takesExceptions _ _⟩
  exact decode_ptShape (by rw [hop]; rfl) (hop ▸ hu) (by simp [shapeFitsOp_iff, hop, hnone])

/-- Settles O19: a write reads nothing, so its result is empty. -/
theorem passthroughWrite : Obligations.PassthroughWrite := by
  intro addr bs
  refine ⟨fun c => decode_iff_of_desc rfl, fun c hop hu hnone => ?_,
    issuesWithin_of_desc rfl PTDesc.fits_writePT_iff, refusesBeyond_of_desc rfl PTDesc.fits_writePT_iff,
    shapeOK_nothing_iff rfl, answersWith_of_desc rfl rfl, takesExceptions _ _⟩
  exact decode_ptShape (by rw [hop]; rfl) (hop ▸ hu) (by simp [shapeFitsOp_iff, hop, hnone])

/-- Settles O20: both operands have the limit `MAX_PT_BYTES`, and the one read part is returned as it is. -/
theorem passthroughWriteRead : Obligations.PassthroughWriteRead := by
  intro addr bs n
  refine ⟨fun c => decode_iff_of_desc rfl, fun c hop hu hnone => ?_,
    issuesWithin_of_desc rfl PTDesc.fits_writeReadPT_iff, refusesBeyond_of_desc rfl PTDesc.fits_writeReadPT_iff,
    shapeOK_single_iff rfl, fun rs hlen => answersWith_of_desc rfl ((shapeOK_single_iff rfl _).mpr ⟨rs, hlen, rfl⟩),
    takesExceptions _ _⟩
  exact decode_ptShape (by rw [hop]; rfl) (hop ▸ hu) (by simp [shapeFitsOp_iff, hop, hnone])

/-- Settles O21: the segments are the request's own, and `segReadShape_eq` gives one part of the answer for each that reads. -/
theorem passthroughTransaction : Obligations.PassthroughTransaction := by
  intro addr segs
  refine ⟨fun c => decode_iff_of_desc rfl, fun c hop hu hnone => ?_,
    issuesWithin_of_desc rfl PTDesc.fits_txnPT_iff, refusesBeyond_of_desc rfl PTDesc.fits_txnPT_iff,
    fun d hd => answersWith_of_desc rfl ((shapeOK_iff _ d).mpr (hd.trans (segReadShape_eq segs).symm)), takesExceptions _ _⟩
  exact decode_ptShape (by rw [hop]; rfl) (hop ▸ hu) (by simp [shapeFitsOp_iff, hop, hnone])

/-! ### Chaining (42 R113) -/

/-- The command that carries a request is a passthrough command, and the request is its own. -/
theorem chainCommand_spec (q : TReq) : (∃ desc, (chainCommand q).desc = some desc) ∧ frame (chainCommand q) = q := by
  cases q <;> exact ⟨⟨_, rfl⟩, rfl⟩

/-- Settles O37: the request is its own command's frame, and `chainAnswer` reads back the result or the error. -/
theorem chainedRequestPassesUnchanged : Obligations.ChainedRequestPassesUnchanged := by
  intro q
  obtain ⟨⟨desc, hdesc⟩, hframe⟩ := chainCommand_spec q
  have hfits := fits_iff_wf_of_desc hdesc
  refine ⟨fun s hf hm => ⟨fun hwf => ?_, fun hwf => ?_⟩, fun s r rest ha hs => ?_⟩
  · obtain ⟨withdrawn, hexec⟩ := issuesWithin_of_desc hdesc hfits s hf hm hwf
    exact ⟨_, hexec, congrArg some hframe, rfl⟩
  · obtain ⟨port, hexec⟩ := refusesBeyond_of_desc hdesc hfits s hf hm (by simp [hwf])
    exact ⟨_, hexec, rfl, rfl⟩
  · cases r with
    | ok d => exact ⟨_, answersWith_of_desc hdesc (hs d rfl) s rest ha, rfl, rfl⟩
    | err e => exact ⟨_, (takesExceptions _ q).1 s rest e ha, rfl, rfl⟩

end Sys2Proof.Machine
end

section
/-! Transport errors and the way out of DONE (60_exceptions R114, R115, R117, R125). -/

namespace Sys2Proof.Machine

/-- Settles O33: `step` is the machine of every error type at `TransportError`, and that machine commutes with every map of the
error values. -/
theorem errorValuesAreNeverInspected : Obligations.ErrorValuesAreNeverInspected := by
  intro f s
  calc step (s.mapError f)
    _ = stepOf (s.mapError f) := (stepOf_eq_step _).symm
    _ = mapErrorOutcome f (stepOf s) := stepOf_mapError f s
    _ = mapErrorOutcome f (step s) := by rw [stepOf_eq_step]

/-- Settles O32: the first exception that every command takes, whatever request is outstanding. -/
theorem transportErrorForwardedUnchanged : Obligations.TransportErrorForwardedUnchanged :=
  fun i s q e rest => (takesExceptions i q).1 s rest e

/-- Settles O49: Reset and Ack may lead away; Cancel is enabled in BUSY alone and a command is issued in IDLE alone, an answer
ends in DONE, and every other effect keeps the controller's state. -/
theorem onlyAckOrResetLeavesDone : Obligations.OnlyAckOrResetLeavesDone := by
  intro s t hdone h hleft
  cases step_effect h with
  | reset hi => exact .inr (by rw [hi]; rfl)
  | delivered _ hi => exact .inl (by rw [hi]; rfl)
  | cancelled _ _ hbusy => simp [hdone] at hbusy
  | issued _ hidle => simp [hdone] at hidle
  | failed | finished => exact absurd rfl hleft
  | _ => exact absurd hdone hleft

end Sys2Proof.Machine
end

section
/-! Waiting in BUSY and the ways out of it (70 R140). -/

namespace Sys2Proof.Machine

/-- With no command to accept and no input to come the block waits, whether it is marked or not (70 R132, R140). -/
theorem step_wait {s : State} (ha : s.acceptable = none) (hi : s.inputs = []) : step s = .next s := by
  have hr : s.inputs.head? ≠ some .reset := by simp [hi]
  cases hm : s.marked with
  | true =>
    have hdrop : s.dropInput = s := by rw [State.dropInput, hi, List.tail_nil, ← hi]
    exact step_become (by rw [State.nextMove_marked hr hm, hdrop])
  | false => exact step_become (by rw [State.nextMove_unmarked hr hm, State.ordinaryMove_wait ha hi])

/-- Settles O48: no command is accepted in BUSY, so `step_wait` applies; an answer, Cancel and Reset lead away, Issue leads to BUSY
itself, a response is delivered in DONE alone, and every other effect keeps the controller's state. -/
theorem busyUntilAnswerCancelOrReset : Obligations.BusyUntilAnswerCancelOrReset := by
  refine ⟨fun s hbusy hi => step_wait (State.acceptable_of_not_idle (by simp [hbusy])) hi, fun s t hbusy h hleft => ?_⟩
  cases step_effect h with
  | reset hi => exact .inr (.inr (by rw [hi]; rfl))
  | cancelled _ hi => exact .inr (.inl (by rw [hi]; rfl))
  | failed hans | finished hans =>
    obtain ⟨-, -, -, hi⟩ := hans
    exact .inl ⟨_, by rw [hi]; rfl⟩
  | issued => exact absurd rfl hleft
  | delivered _ _ hdone => simp [hbusy] at hdone
  | _ => exact absurd hbusy hleft

end Sys2Proof.Machine
end
